-- ==== Sys2Proof/Word.lean ====
section
/-! DEFINITION. The words of the block: 32-bit registers, 8-bit bytes, 5-bit symbols, the 30-bit accumulator
(spec 00_scope.md R8, R10). -/

namespace Sys2Proof

/-- A register, command or bus word (10_state.md R20, 20_memory.md R50). -/
abbrev Word := BitVec 32

/-- A buffer byte (00_scope.md R8). -/
abbrev Byte := BitVec 8

/-- A symbol, an index into the alphabet (00_scope.md R8, R14). -/
abbrev Symbol := BitVec 5

/-- The polymod accumulator (00_scope.md R8). -/
abbrev Acc := BitVec 30

end Sys2Proof
end

