-- ==== Sys2Proof/Syntax.lean ====
section
/-! DEFINITION. The commands of the block, one constructor per row of spec/opcode_table.json
(30_encoding.md R71, R77, R78). -/

namespace Sys2Proof

/-- A command. The variant is part of the mnemonic (`.O` Origin, `.B` Bis, R78); the ignored fields of a word are no
part of the command (R75). -/
inductive Instr where
  /-- `NOP` (40_command_engine.md R97). -/
  | nop
  /-- `POLY.INIT` (41_polymod.md R116). -/
  | polyInit
  /-- `POLY.STEP sym` (R117); `sym` is the number the host's syntax gives, 0 to 31 (R78). -/
  | polyStep (sym : Nat)
  /-- `POLY.RUN` (R118). -/
  | polyRun
  /-- `HRP.EXPAND` (R119). -/
  | hrpExpand
  /-- `CHK.CREATE.O` (R120). -/
  | chkCreateO
  /-- `CHK.CREATE.B` (R120). -/
  | chkCreateB
  /-- `CHK.VERIFY.O` (R121). -/
  | chkVerifyO
  /-- `CHK.VERIFY.B` (R121). -/
  | chkVerifyB
  /-- `B32.ENC.O` (42_base32.md R141). -/
  | b32EncO
  /-- `B32.ENC.B` (R141). -/
  | b32EncB
  /-- `B32.DEC` (R142). -/
  | b32Dec
  /-- `B32.ENCD` (R143). -/
  | b32Encd
  /-- `B32.DECD` (R144). -/
  | b32Decd
  /-- `UR.PROBE` (43_ur.md R172). -/
  | urProbe
  /-- `UR.DEC` (R173). -/
  | urDec
  deriving DecidableEq, Repr

end Sys2Proof
end

