-- ==== Sys2Proof/WellFormed.lean ====
section
/-! DEFINITION. When a command has an encoding: the bound of the host's syntax on the one operand (30_encoding.md R78). -/

namespace Sys2Proof

/-- A command is well formed when its symbol operand is 0 to 31 (R78: "`<sym>` (0 to 31) is required exactly on
POLY.STEP"). The other commands have no operand in the word (R73). -/
def Instr.wellFormed (i : Instr) : Bool :=
  match i with
  | .polyStep sym => decide (sym < 32)
  | .nop | .polyInit | .polyRun | .hrpExpand => true
  | .chkCreateO | .chkCreateB | .chkVerifyO | .chkVerifyB => true
  | .b32EncO | .b32EncB | .b32Dec | .b32Encd | .b32Decd => true
  | .urProbe | .urDec => true

/-- The same as a proposition. -/
abbrev Instr.WellFormed (i : Instr) : Prop := i.wellFormed = true

end Sys2Proof
end

