-- ==== Sys2Proof/Decode.lean ====
section
/-! DEFINITION. The decoder of a command word, total on all 32-bit words, and the encoder (30_encoding.md R70, R71,
R73, R75, R77, R79). -/

namespace Sys2Proof

/-- Why a word is illegal (R75). -/
inductive Illegal where
  /-- `w[15:9] ≠ 0` or `w[31:21] ≠ 0`. -/
  | reservedBits
  /-- `w[7:0] ≥ 0x0D`, the reserved bits being zero. -/
  | unknownOpcode
  deriving DecidableEq, Repr

/-- The OP field, `w[7:0]` (R70). -/
def opField (w : Word) : BitVec 8 := w.extractLsb' 0 8

/-- The VAR field, `w[8]`: true is Bis (R70, R73). -/
def varField (w : Word) : Bool := w.getLsbD 8

/-- The SYM field, `w[20:16]`, used as is (R70, R73). -/
def symField (w : Word) : Symbol := w.extractLsb' 16 5

/-- The two reserved fields are zero (R70, R75). -/
def reservedZero (w : Word) : Bool :=
  w.extractLsb' 9 7 == 0#7 && w.extractLsb' 21 11 == 0#11

/-- The opcode map of R71, the variant chosen by VAR where R73 has it read. -/
def decodeOp (op : Nat) (bis : Bool) (sym : Nat) : Option Instr :=
  match op with
  | 0x00 => some .nop
  | 0x01 => some .polyInit
  | 0x02 => some (.polyStep sym)
  | 0x03 => some .polyRun
  | 0x04 => some .hrpExpand
  | 0x05 => some (if bis then .chkCreateB else .chkCreateO)
  | 0x06 => some (if bis then .chkVerifyB else .chkVerifyO)
  | 0x07 => some (if bis then .b32EncB else .b32EncO)
  | 0x08 => some .b32Dec
  | 0x09 => some .b32Encd
  | 0x0A => some .b32Decd
  | 0x0B => some .urProbe
  | 0x0C => some .urDec
  | _ => none

/-- Decoding, as R77 gives it: a total function from a 32-bit word. -/
def decode (w : Word) : Except Illegal Instr :=
  if reservedZero w then
    match decodeOp (opField w).toNat (varField w) (symField w).toNat with
    | some i => .ok i
    | none => .error .unknownOpcode
  else .error .reservedBits

/-- Build a word from its three fields, `OP | VAR << 8 | sym << 16` (R79). -/
def encodeFields (op : Nat) (bis : Bool) (sym : Nat) : Word :=
  BitVec.ofNat 32 op ||| (BitVec.ofNat 32 bis.toNat <<< 8) ||| (BitVec.ofNat 32 sym <<< 16)

/-- The command word of a command (R79): ignored fields are written 0. -/
def encode (i : Instr) : Word :=
  match i with
  | .nop => encodeFields 0x00 false 0
  | .polyInit => encodeFields 0x01 false 0
  | .polyStep sym => encodeFields 0x02 false sym
  | .polyRun => encodeFields 0x03 false 0
  | .hrpExpand => encodeFields 0x04 false 0
  | .chkCreateO => encodeFields 0x05 false 0
  | .chkCreateB => encodeFields 0x05 true 0
  | .chkVerifyO => encodeFields 0x06 false 0
  | .chkVerifyB => encodeFields 0x06 true 0
  | .b32EncO => encodeFields 0x07 false 0
  | .b32EncB => encodeFields 0x07 true 0
  | .b32Dec => encodeFields 0x08 false 0
  | .b32Encd => encodeFields 0x09 false 0
  | .b32Decd => encodeFields 0x0A false 0
  | .urProbe => encodeFields 0x0B false 0
  | .urDec => encodeFields 0x0C false 0

/-- The instruction word the opcode table numbers: the low `nbits` bits of `w`, the rest of the 32 zero. A command is
one 32-bit register value, so there is no byte order to lay out (R70, R76). -/
def tableWord (nbits w : Nat) : Word := BitVec.ofNat 32 (w % 2 ^ nbits)

/-- What the decoder reads from an instruction of the opcode table. -/
def decodeTableWord (nbits w : Nat) : Option Instr :=
  match decode (tableWord nbits w) with
  | .ok i => some i
  | .error _ => none

end Sys2Proof
end

