-- ==== Sys2Proof/Config.lean ====
section
/-! DEFINITION. What an implementation fixes (the parameters of 00_scope.md R6) and the free values (the values the
spec leaves unspecified, 93_implementation_defined.md U1 to U6). -/

namespace Sys2Proof.Config

/-- The parameters of R6 that a built block has. `LATENCY` is not here: it is where the completion step falls among
the host's accesses (70_reset_and_hazards.md R234; assumption log 1). DESIGN CHOICE (log 4): State carries them. -/
structure Params where
  /-- `IN_BYTES`, the size of INBUF in bytes. -/
  inBytes : Nat
  /-- `OUT_BYTES`, the size of OUTBUF in bytes. -/
  outBytes : Nat
  /-- `SCRATCH_BYTES`, the longest reassembled UR text. -/
  scratchBytes : Nat
  /-- `MAX_FRAGS`, the number of descriptors. -/
  maxFrags : Nat
  /-- `BLOCK_BASE`, the bus address of window offset 0 (OPEN in the spec). -/
  blockBase : Nat
  /-- `BUS_IN_ORDER` (OPEN in the spec; 20_memory.md R59). -/
  busInOrder : Bool
  /-- `IRQ_LINE`, the platform line `irq` drives (OPEN in the spec; 60_exceptions.md R207). -/
  irqLine : Nat
  deriving DecidableEq, Repr

/-- The legal values of R6. The three platform parameters have no bound. -/
abbrev Params.Legal (p : Params) : Prop :=
  (p.inBytes % 4 = 0 ∧ 256 ≤ p.inBytes ∧ p.inBytes ≤ 32768) ∧
  (p.outBytes % 4 = 0 ∧ 256 ≤ p.outBytes ∧ p.outBytes ≤ 32768) ∧
  (256 ≤ p.scratchBytes ∧ p.scratchBytes ≤ 65535) ∧
  (1 ≤ p.maxFrags ∧ p.maxFrags ≤ 254)

/-- The defaults of R6; the three platform parameters, which have none, are named in log 4 (DESIGN CHOICE, unsafe). -/
def Params.default : Params where
  inBytes := 4096
  outBytes := 4096
  scratchBytes := 8192
  maxFrags := 64
  blockBase := 0
  busInOrder := true
  irqLine := 0

/-- The byte that INBUF or DESC holds at a window offset nothing has written since the hard reset that `draw`
numbers: any value (U4; log 6). -/
opaque ramByte (draw offset : Nat) : Byte

/-- The byte that OUTBUF holds at a window offset where no result stands: any value (U1, U2, U5; log 7). -/
opaque outByte (draw offset : Nat) : Byte

/-- The word an unspecified host read returns: any value (U3, U6; logs 8 and 9). -/
opaque busWord (draw : Nat) : Word

end Sys2Proof.Config
end

