-- ==== Sys2Proof/Machine/State.lean ====
section
/-! DEFINITION. The state of the block, its value after reset, and the reasons a step can stop (10_state.md,
70_reset_and_hazards.md R230). -/

namespace Sys2Proof.Machine

open Sys2Proof.Config

/-- `ENG`, the engine state (10_state.md R21, R41). -/
inductive Engine where
  /-- No command in flight. -/
  | idle
  /-- A command in flight; STATUS.BUSY reads 1. -/
  | busy
  deriving DecidableEq, Repr

/-- ERR_INFO's three fields (10_state.md R30); bits [31:28] are reserved and hold nothing. -/
structure ErrInfo where
  /-- `DETAIL`, [15:0]. -/
  detail : BitVec 16
  /-- `FRAG`, [23:16]. -/
  frag : BitVec 8
  /-- `FIELD`, [27:24]. -/
  field : BitVec 4
  deriving DecidableEq, Repr

/-- ERR_INFO = 0. -/
def ErrInfo.zero : ErrInfo := ⟨0, 0, 0⟩

/-- What reaches the block from outside, one event a step (00_scope.md R15; DESIGN CHOICE, safe: log 1). -/
inductive Input where
  /-- A host read of 4 bytes at a bus address (`MemRead`, 20_memory.md R50). -/
  | read (addr : Nat)
  /-- A host write of 4 bytes at a bus address (`MemWrite`, R50). -/
  | write (addr : Nat) (value : Word)
  /-- The point at which the engine takes its completion step (40_command_engine.md R92, 70_reset_and_hazards.md R234). -/
  | engine
  /-- The `rst` input rises (R230). -/
  | assertRst
  /-- The `rst` input falls (R230). -/
  | releaseRst
  deriving DecidableEq, Repr

/-- Why a step stops with a fault. The block itself has no fault (60_exceptions.md R202). -/
inductive Fault where
  /-- Raised by a host access whose bus address is outside the block's window: 10_state.md R20 says such addresses are
  not the block's, so the model has nothing to answer. SAFE: the model stops where the platform would go on (log 12). -/
  | outsideWindow
  deriving DecidableEq, Repr

/-- Why a step refuses. No meaning of this model refuses. -/
inductive Refusal where
  /-- An instruction that has no meaning yet, by its mnemonic; raised by no arm of `exec`. SAFE: the model stops. -/
  | notModelled (mnemonic : String)
  deriving DecidableEq, Repr

/-- The state of the block (10_state.md R20, R21, R37, R41, R45). Register fields have the width of their implemented
bits, so that reserved bits read 0 and ignore writes by construction (20_memory.md R55). -/
structure State where
  /-- The parameters the machine was built with, which CAPS, INSIZE, OUTSIZE and SCRSIZE report (00_scope.md R6). -/
  params : Params
  /-- Level of the `rst` input (70_reset_and_hazards.md R230). -/
  rst : Bool
  /-- `ENG` (10_state.md R41); STATUS.BUSY is `ENG = BUSY` (R28). -/
  eng : Engine
  /-- `CTRL.IE` (R26). -/
  ie : Bool
  /-- `CMD` (R27). -/
  cmd : Word
  /-- `STATUS.DONE` (R28). -/
  done : Bool
  /-- `STATUS.HAZ` (R28). -/
  haz : Bool
  /-- `STATUS.ERRCODE` (R28); STATUS.ERR is `ERRCODE ≠ 0`. -/
  errcode : BitVec 8
  /-- `ERR_INFO` (R30). -/
  errInfo : ErrInfo
  /-- `ALEN.LEN` (R31). -/
  alen : BitVec 16
  /-- `BLEN.LEN` (R32). -/
  blen : BitVec 16
  /-- `FCOUNT.N` (R33). -/
  fcount : BitVec 8
  /-- `OUT_LEN` (R34). -/
  outLen : BitVec 16
  /-- `ACC` (R35). -/
  acc : Acc
  /-- `RES0` (R36). -/
  res0 : Word
  /-- `RES1` (R36). -/
  res1 : Word
  /-- `RES2` (R36). -/
  res2 : Word
  /-- DESC, INBUF and OUTBUF (R37), by window offset (R20): the bytes that a write or a result has determined, in
  canonical form. A byte not listed is unspecified (R38, R39, R40). -/
  mem : List Host.Cell
  /-- The model's own: numbers the unspecified contents of INBUF and DESC (log 6). -/
  ramDraw : Nat
  /-- The model's own: numbers the unspecified contents of OUTBUF (log 7). -/
  outDraw : Nat
  /-- The model's own: how many unspecified words host reads have returned (log 8). -/
  busDraw : Nat
  /-- The model's own: events not yet received, in arrival order (log 1). -/
  inputs : List Input
  /-- The model's own: the word driven for the host read the last step performed (log 3). -/
  answer : Option Word
  deriving DecidableEq, Repr

/-- The machine right after hard reset: the "hard reset" column of 10_state.md R45, with the default parameters of
00_scope.md R6. Nothing is listed in memory: INBUF, DESC and OUTBUF are unspecified. -/
def State.reset : State where
  params := Params.default
  rst := false
  eng := .idle
  ie := false
  cmd := 0
  done := false
  haz := false
  errcode := 0
  errInfo := .zero
  alen := 0
  blen := 0
  fcount := 0
  outLen := 0
  acc := 1
  res0 := 0
  res1 := 0
  res2 := 0
  mem := []
  ramDraw := 0
  outDraw := 0
  busDraw := 0
  inputs := []
  answer := none

end Sys2Proof.Machine
end

