-- ==== Sys2Proof/Machine/Memory.lean ====
section
/-! DEFINITION. The block's memory: a list of (window offset, byte) pairs in one canonical form, and the operations
over it (10_state.md R37 to R40, 20_memory.md R51). The list holds the bytes that are determined; an offset that is
not listed holds no value here, and `State.byteAt` reads it as a free value (93_implementation_defined.md U1, U2, U4,
U5; logs 6 and 7). -/

namespace Sys2Proof.Machine

open Sys2Proof.Config

/-- The window offset of DESC[0] (10_state.md R20). -/
def descBase : Nat := 0x400

/-- The window offset of INBUF[0] (R20). -/
def inBase : Nat := 0x8000

/-- The window offset of OUTBUF[0] (R20); every larger offset of the window is OUTBUF's. -/
def outBase : Nat := 0x10000

/-- The offset just past the window (R20). -/
def windowEnd : Nat := 0x18000

/-- The canonical form: offsets strictly rising, so that equal memories are equal lists. -/
def Memory.wf : List Host.Cell → Bool
  | [] => true
  | [_] => true
  | (a, _) :: (b, v) :: rest => decide (a < b) && Memory.wf ((b, v) :: rest)

/-- The determined byte at an offset, if there is one. -/
def Memory.lookup : List Host.Cell → Nat → Option Byte
  | [], _ => none
  | (k, v) :: rest, a => if k = a then some v else Memory.lookup rest a

/-- Write one byte, keeping the canonical form. -/
def Memory.store : List Host.Cell → Nat → Byte → List Host.Cell
  | [], a, b => [(a, b)]
  | (k, v) :: rest, a, b =>
    if a < k then (a, b) :: (k, v) :: rest
    else if a = k then (a, b) :: rest
    else (k, v) :: Memory.store rest a b

/-- The cells below an offset. -/
def Memory.below (m : List Host.Cell) (a : Nat) : List Host.Cell :=
  m.filter (fun c => decide (c.1 < a))

/-- Consecutive cells from an offset on: element i of a sequence is buffer byte `start + i` (20_memory.md R52). -/
def Memory.cellsFrom : Nat → List Byte → List Host.Cell
  | _, [] => []
  | a, b :: rest => (a, b) :: Memory.cellsFrom (a + 1) rest

/-- The four bytes of a word, least significant first (R51). -/
def wordBytes (v : Word) : List Byte :=
  [v.extractLsb' 0 8, v.extractLsb' 8 8, v.extractLsb' 16 8, v.extractLsb' 24 8]

/-- The word of four bytes, the first the least significant (R51). -/
def wordOfBytes (b0 b1 b2 b3 : Byte) : Word := b3 ++ b2 ++ b1 ++ b0

/-- Write the four bytes of a word at an offset (R51). -/
def Memory.storeWord (m : List Host.Cell) (a : Nat) (v : Word) : List Host.Cell :=
  Memory.store (Memory.store (Memory.store (Memory.store m a (v.extractLsb' 0 8))
    (a + 1) (v.extractLsb' 8 8)) (a + 2) (v.extractLsb' 16 8)) (a + 3) (v.extractLsb' 24 8)

/-- The byte held at a window offset of DESC, INBUF or OUTBUF: the determined byte, or a free value of the contents
that the last reset (or, for OUTBUF, the last command) left unspecified. -/
def State.byteAt (s : State) (a : Nat) : Byte :=
  match Memory.lookup s.mem a with
  | some b => b
  | none => if a < outBase then ramByte s.ramDraw a else outByte s.outDraw a

/-- The word held at a window offset of DESC, INBUF or OUTBUF (R51). DESC words are kept in the same byte order, which
nothing can observe (log 15). -/
def State.wordAt (s : State) (a : Nat) : Word :=
  wordOfBytes (s.byteAt a) (s.byteAt (a + 1)) (s.byteAt (a + 2)) (s.byteAt (a + 3))

/-- `INBUF[i]` (10_state.md R38). -/
def State.inByte (s : State) (i : Nat) : Byte := s.byteAt (inBase + i)

/-- `OUTBUF[i]` (R39). -/
def State.outByteAt (s : State) (i : Nat) : Byte := s.byteAt (outBase + i)

/-- `DESC[k]` (R40). -/
def State.descWord (s : State) (k : Nat) : Word := s.wordAt (descBase + 4 * k)

/-- `InRead(off, n)`, the bytes `INBUF[off..off+n)` (00_scope.md R12). -/
def State.inRead (s : State) (off n : Nat) : List Byte :=
  (List.range n).map (fun i => s.inByte (off + i))

/-- Host write of the word at window offset `a` (20_memory.md R50, R51). -/
def State.storeWord (s : State) (a : Nat) (v : Word) : State :=
  { s with mem := Memory.storeWord s.mem a v }

/-- OUTBUF becomes unspecified: every byte a fresh free value (10_state.md R39, 93_implementation_defined.md U1, U2,
U5). -/
def State.spoilOut (s : State) : State :=
  { s with mem := Memory.below s.mem outBase, outDraw := s.outDraw + 1 }

/-- INBUF and DESC become unspecified (R38, R40, U4): hard reset only. Every listed byte of them is dropped. -/
def State.spoilRam (s : State) : State :=
  { s with mem := s.mem.filter (fun c => decide (outBase ≤ c.1)), ramDraw := s.ramDraw + 1 }

/-- `OutWrite(x)`: `OUTBUF[0..len(x)) <- x` and `OUT_LEN <- len(x)` (00_scope.md R12); OUTBUF's bytes from `len(x)` on
become unspecified (10_state.md R39). -/
def State.outWrite (s : State) (x : List Byte) : State :=
  { s with
    mem := Memory.below s.mem outBase ++ Memory.cellsFrom outBase x
    outDraw := s.outDraw + 1
    outLen := BitVec.ofNat 16 x.length }

end Sys2Proof.Machine
end

