-- ==== Sys2Proof/Machine/Map.lean ====
section
/-! DEFINITION. The address map of the window (10_state.md R20, 20_memory.md R53, R55, R57). -/

namespace Sys2Proof.Machine

open Sys2Proof.Config

/-- The registers of R20. -/
inductive Reg where
  | id | caps | insize | outsize | scrsize
  | ctrl | cmd | status | errInfo
  | alen | blen | fcount
  | outLen | acc | res0 | res1 | res2
  deriving DecidableEq, Repr

/-- What a window offset names. -/
inductive Loc where
  /-- A register. -/
  | reg (r : Reg)
  /-- `DESC[k]` with `k < MAX_FRAGS`. -/
  | desc (k : Nat)
  /-- The INBUF word whose first byte has index `i < IN_BYTES`. -/
  | inbuf (i : Nat)
  /-- The OUTBUF word whose first byte has index `i < OUT_BYTES`. -/
  | outbuf (i : Nat)
  /-- A reserved offset, or one past a buffer's or DESC's size (RAZ/WI, R55). -/
  | reserved
  deriving DecidableEq, Repr

/-- The register at a word-aligned offset below 0x400, if there is one (R20). -/
def regAt (o : Nat) : Option Reg :=
  match o with
  | 0x000 => some .id
  | 0x004 => some .caps
  | 0x008 => some .insize
  | 0x00C => some .outsize
  | 0x010 => some .scrsize
  | 0x020 => some .ctrl
  | 0x024 => some .cmd
  | 0x028 => some .status
  | 0x02C => some .errInfo
  | 0x030 => some .alen
  | 0x034 => some .blen
  | 0x038 => some .fcount
  | 0x03C => some .outLen
  | 0x040 => some .acc
  | 0x044 => some .res0
  | 0x048 => some .res1
  | 0x04C => some .res2
  | _ => none

/-- What a word-aligned offset names; none past the window (R20, R55). -/
def locateWord (p : Params) (o : Nat) : Option Loc :=
  if o < descBase then
    some (match regAt o with
      | some r => .reg r
      | none => .reserved)
  else if o < 0x800 then
    some (if (o - descBase) / 4 < p.maxFrags then .desc ((o - descBase) / 4) else .reserved)
  else if o < inBase then some .reserved
  else if o < outBase then
    some (if o - inBase < p.inBytes then .inbuf (o - inBase) else .reserved)
  else if o < windowEnd then
    some (if o - outBase < p.outBytes then .outbuf (o - outBase) else .reserved)
  else none

/-- What a window offset names: bits [1:0] of the offset are ignored (20_memory.md R53). -/
def locate (p : Params) (offset : Nat) : Option Loc := locateWord p (offset / 4 * 4)

/-- What a bus address names: the window begins at `BLOCK_BASE`; addresses outside it are not the block's (R20, R50). -/
def locateBus (p : Params) (addr : Nat) : Option Loc :=
  if p.blockBase ≤ addr then locate p (addr - p.blockBase) else none

end Sys2Proof.Machine
end

