-- ==== Sys2Proof/Machine/Errors.lean ====
section
/-! DEFINITION. The error codes of the block and the record of a failure (60_exceptions.md R200, R201, R203). -/

namespace Sys2Proof.Machine

/-- The named errors of R200. OK is the absence of an error. `FRAMING_HEADER_MISMATCH` (0x30) is reserved and never
produced, so it is no constructor. -/
inductive ErrorCode where
  | illegalCommand
  | argRange
  | outOverflow
  | invalidSymbol
  | invalidCharRange
  | mixedCase
  | lengthExceeded
  | separatorPosition
  | notInAlphabet
  | invalidChecksum
  | invalidPadding
  | malformedHeader
  | invalidSequencing
  | digestMismatch
  | duplicateIndex
  | malformedShape
  | digestInconsistent
  | emptySet
  deriving DecidableEq, Repr

/-- The number of an error code (R200). -/
def errorNumber (c : ErrorCode) : BitVec 8 :=
  match c with
  | .illegalCommand => 0x01
  | .argRange => 0x02
  | .outOverflow => 0x03
  | .invalidSymbol => 0x04
  | .invalidCharRange => 0x10
  | .mixedCase => 0x11
  | .lengthExceeded => 0x12
  | .separatorPosition => 0x13
  | .notInAlphabet => 0x14
  | .invalidChecksum => 0x15
  | .invalidPadding => 0x16
  | .malformedHeader => 0x20
  | .invalidSequencing => 0x21
  | .digestMismatch => 0x22
  | .duplicateIndex => 0x23
  | .malformedShape => 0x24
  | .digestInconsistent => 0x25
  | .emptySet => 0x26

/-- Every number STATUS.ERRCODE may hold: 0 and those of R200 that a command produces. -/
def producedCodes : List (BitVec 8) :=
  [0x00, 0x01, 0x02, 0x03, 0x04, 0x10, 0x11, 0x12, 0x13, 0x14, 0x15, 0x16,
   0x20, 0x21, 0x22, 0x23, 0x24, 0x25, 0x26]

/-- A failure of a command: `Error(code, DETAIL, FRAG, FIELD)` (00_scope.md R12, R203). -/
structure CmdError where
  code : ErrorCode
  detail : Nat
  frag : Nat
  field : Nat
  deriving DecidableEq, Repr

/-- A failure of a base-32 function: `Fail(code, detail)` (42_base32.md). The caller adds FRAG and FIELD. -/
structure CodecFail where
  code : ErrorCode
  detail : Nat
  deriving DecidableEq, Repr

/-- FRAG of an error that belongs to no single fragment (10_state.md R30). -/
def noFrag : Nat := 0xFF

/-- Re-raise a base-32 failure with its own FRAG and FIELD (43_ur.md preamble, R201). -/
def CodecFail.at (e : CodecFail) (frag field : Nat) : CmdError := ⟨e.code, e.detail, frag, field⟩

/-- ERR_INFO of a failure: `fi << 24 | fr << 16 | d` by fields (R203). DETAIL fits its 16 bits for every legal
parameter (R201). -/
def CmdError.info (e : CmdError) : ErrInfo :=
  ⟨BitVec.ofNat 16 e.detail, BitVec.ofNat 8 e.frag, BitVec.ofNat 4 e.field⟩

/-- A check of a command: it goes on, or fails with the given error and makes no later check (R204). -/
def require (holds : Bool) (e : CmdError) : Except CmdError Unit :=
  if holds then .ok () else .error e

/-- Carry on with a base-32 result, or re-raise its failure with FRAG and FIELD. -/
def liftCodec {α : Type} (r : Except CodecFail α) (frag field : Nat) : Except CmdError α :=
  match r with
  | .ok v => .ok v
  | .error e => .error (e.at frag field)

end Sys2Proof.Machine
end

