-- ==== Sys2Proof/Machine/Flags.lean ====
section
/-! DEFINITION. The status flags, the words registers read as, and the interrupt output (10_state.md R26, R28, R30 to
R36, R43; 60_exceptions.md R207). -/

namespace Sys2Proof.Machine

/-- STATUS.BUSY: 1 while `ENG = BUSY` (R28). -/
def State.busy (s : State) : Bool :=
  match s.eng with
  | .idle => false
  | .busy => true

/-- STATUS.ERR: "always equals `(ERRCODE ≠ 0)`" (R28). -/
def State.err (s : State) : Bool := s.errcode != 0#8

/-- The word STATUS reads as: BUSY [0], DONE [1], ERR [2], HAZ [3], ERRCODE [15:8], the rest 0 (R28). While BUSY it reads
BUSY = 1, DONE = 0, ERR = 0, ERRCODE = 0 and the current HAZ (70_reset_and_hazards.md R235), since issue cleared them. -/
def State.statusWord (s : State) : Word :=
  0#16 ++ s.errcode ++ 0#4 ++ BitVec.ofBool s.haz ++ BitVec.ofBool s.err ++ BitVec.ofBool s.done
    ++ BitVec.ofBool s.busy

/-- The word CTRL reads as: IE [0]; SRST reads 0 (R26). -/
def State.ctrlWord (s : State) : Word := BitVec.ofNat 32 s.ie.toNat

/-- The word ERR_INFO reads as: FIELD [27:24], FRAG [23:16], DETAIL [15:0] (R30). -/
def errInfoWord (e : ErrInfo) : Word := 0#4 ++ e.field ++ e.frag ++ e.detail

/-- The interrupt output: `irq = CTRL.IE AND STATUS.DONE` (60_exceptions.md R207). -/
def State.irq (s : State) : Bool := s.ie && s.done

/-- Whether the block drives the platform's interrupt input `line` high: `irq` on the input `IRQ_LINE` names (R207). -/
def State.drivesLine (s : State) (line : Nat) : Bool := decide (line = s.params.irqLine) && s.irq

/-- A host write to STATUS while IDLE: W1C of DONE [1] and HAZ [3], the other bits ignored (R29). -/
def State.clearStatus (s : State) (w : Word) : State :=
  { s with
    done := s.done && !w.getLsbD 1
    haz := s.haz && !w.getLsbD 3 }

end Sys2Proof.Machine
end

