-- ==== Sys2Proof/Machine/Ops.lean ====
section
/-! DEFINITION. The shared operations of the block: issue, completion, error completion, resets, hazard writes
(40_command_engine.md R91 to R94, 60_exceptions.md R203, 70_reset_and_hazards.md R230, R231, R236). -/

namespace Sys2Proof.Machine

/-- Issue: what a host write of `w` to CMD does while IDLE, as one atomic step (R91). -/
def issue (w : Word) (s : State) : State :=
  { s with
    cmd := w
    eng := .busy
    done := false
    errcode := 0
    errInfo := .zero
    outLen := 0
    res0 := 0
    res1 := 0
    res2 := 0 }

/-- `complete(OK)`: ERRCODE and ERR_INFO 0, then the common completion writes `ENG <- IDLE`, `DONE <- 1` (R92, R93).
The command's own results are already written. -/
def complete (s : State) : State :=
  { s with eng := .idle, done := true, errcode := 0, errInfo := .zero }

/-- TAKING AN ERROR, the block's only exception: `raise Error(CODE, DETAIL, FRAG, FIELD)` (60_exceptions.md R203,
40_command_engine.md R94). OUT_LEN and RES0 to RES2 stay as issue set them; OUTBUF becomes unspecified. -/
def raiseError (e : CmdError) (s : State) : State :=
  { s.spoilOut with
    eng := .idle
    done := true
    errcode := errorNumber e.code
    errInfo := e.info }

/-- End a command whose work is `r`: the results `r` holds and `complete(OK)`, or the error completion of the state
the command began in, with nothing of the command's work (R90, R94: "no partial results"). -/
def settle (s : State) (r : Except CmdError State) : Host.Outcome State Fault Refusal :=
  match r with
  | .ok t => .next (complete t)
  | .error e => .next (raiseError e s)

/-- The completion of an illegal command word: `raise Error(ILLEGAL_COMMAND, DETAIL = w[7:0], FRAG = 0xFF, FIELD = 0)`
with `w` the word in CMD (R98). -/
def completeIllegal (s : State) : State :=
  raiseError ⟨.illegalCommand, (s.cmd.extractLsb' 0 8).toNat, noFrag, 0⟩ s

/-- A hazard write: ignored, and HAZ is set (70_reset_and_hazards.md R236). -/
def hazard (s : State) : State := { s with haz := true }

/-- The registers that both resets put back (10_state.md R45). -/
def resetRegisters (s : State) : State :=
  { s with
    eng := .idle
    ie := false
    cmd := 0
    done := false
    haz := false
    errcode := 0
    errInfo := .zero
    alen := 0
    blen := 0
    fcount := 0
    outLen := 0
    acc := 1
    res0 := 0
    res1 := 0
    res2 := 0 }

/-- Soft reset (R231): every register but the constants takes its reset value, a command in flight is abandoned, OUTBUF
becomes unspecified, INBUF and DESC keep their values. -/
def softReset (s : State) : State := (resetRegisters s).spoilOut

/-- Hard reset (R230): as soft reset, and INBUF and DESC become unspecified too. -/
def hardReset (s : State) : State := (resetRegisters s).spoilOut.spoilRam

/-- The next `busWord` of an unspecified host read, limited to the bits of `mask`; each such read takes a fresh one
(70_reset_and_hazards.md R235, R230; logs 8 and 9). -/
def answerFree (mask : Word) (s : State) : State :=
  { s with answer := some (Config.busWord s.busDraw &&& mask), busDraw := s.busDraw + 1 }

/-- The block answers a host read with a word; a read has no other effect (20_memory.md R56). -/
def answerWith (w : Word) (s : State) : State := { s with answer := some w }

end Sys2Proof.Machine
end

