-- ==== Sys2Proof/Machine/Bus.lean ====
section
/-! DEFINITION. Host accesses to the window: reads, writes, and what each does while IDLE, while BUSY and while `rst` is
asserted (10_state.md R20 to R40, 20_memory.md R50 to R56, 70_reset_and_hazards.md R230, R231, R235, R236). -/

namespace Sys2Proof.Machine

/-- The value of the ID register (10_state.md R22). -/
def idWord : Word := 0xBC320100

/-- The word a register holds, reserved bits 0 (10_state.md R22 to R36). -/
def readReg (s : State) (r : Reg) : Word :=
  match r with
  | .id => idWord
  | .caps => (BitVec.ofNat 8 s.params.maxFrags).setWidth 32
  | .insize => BitVec.ofNat 32 s.params.inBytes
  | .outsize => BitVec.ofNat 32 s.params.outBytes
  | .scrsize => BitVec.ofNat 32 s.params.scratchBytes
  | .ctrl => s.ctrlWord
  | .cmd => s.cmd
  | .status => s.statusWord
  | .errInfo => errInfoWord s.errInfo
  | .alen => s.alen.setWidth 32
  | .blen => s.blen.setWidth 32
  | .fcount => s.fcount.setWidth 32
  | .outLen => s.outLen.setWidth 32
  | .acc => s.acc.setWidth 32
  | .res0 => s.res0
  | .res1 => s.res1
  | .res2 => s.res2

/-- The word a location of the window holds (R20, R51, R55). -/
def readLoc (s : State) (l : Loc) : Word :=
  match l with
  | .reg r => readReg s r
  | .desc k => s.descWord k
  | .inbuf i => s.wordAt (inBase + i)
  | .outbuf i => s.wordAt (outBase + i)
  | .reserved => 0

/-- The bits of a register that are unspecified while BUSY: the implemented bits of the five result registers of
70_reset_and_hazards.md R235; the reserved ones read 0 as always (20_memory.md R55; log 8). None for the registers R235
says read their current values. -/
def busyMask (r : Reg) : Option Word :=
  match r with
  | .errInfo => some 0x0FFFFFFF
  | .outLen => some 0x0000FFFF
  | .acc => some 0x3FFFFFFF
  | .res0 => some 0xFFFFFFFF
  | .res1 => some 0xFFFFFFFF
  | .res2 => some 0xFFFFFFFF
  | .id | .caps | .insize | .outsize | .scrsize | .ctrl | .cmd | .status | .alen | .blen | .fcount => none

/-- The bits of a location that are unspecified while BUSY (R235). -/
def busyLocMask (l : Loc) : Option Word :=
  match l with
  | .reg r => busyMask r
  | .outbuf _ => some 0xFFFFFFFF
  | .desc _ | .inbuf _ | .reserved => none

/-- A host read while BUSY: the current value, or an unspecified one (R235). -/
def busyRead (l : Loc) (s : State) : State :=
  match busyLocMask l with
  | none => answerWith (readLoc s l) s
  | some mask => answerFree mask s

/-- A host read of a location: while `rst` is asserted any value (R230), while BUSY as R235 says, while IDLE the value
held. It never sets HAZ and never disturbs the command. -/
def hostRead (l : Loc) (s : State) : State :=
  if s.rst then answerFree 0xFFFFFFFF s
  else
    match s.eng with
    | .idle => answerWith (readLoc s l) s
    | .busy => busyRead l s

/-- A host write to a register while IDLE (R26 to R36); the read-only registers ignore it (R55). CTRL with SRST set is
`writeCtrl`'s. -/
def idleWriteReg (r : Reg) (v : Word) (s : State) : State :=
  match r with
  | .ctrl => { s with ie := v.getLsbD 0 }
  | .cmd => issue v s
  | .status => s.clearStatus v
  | .alen => { s with alen := v.setWidth 16 }
  | .blen => { s with blen := v.setWidth 16 }
  | .fcount => { s with fcount := v.setWidth 8 }
  | .acc => { s with acc := v.setWidth 30 }
  | .id | .caps | .insize | .outsize | .scrsize | .errInfo | .outLen | .res0 | .res1 | .res2 => s

/-- A host write to a location while IDLE (R20, R38 to R40, R55). -/
def idleWrite (l : Loc) (v : Word) (s : State) : State :=
  match l with
  | .reg r => idleWriteReg r v s
  | .desc k => s.storeWord (descBase + 4 * k) v
  | .inbuf i => s.storeWord (inBase + i) v
  | .outbuf _ => s
  | .reserved => s

/-- Whether a write to a location while BUSY is a hazard write (70_reset_and_hazards.md R236). -/
def hazardous (l : Loc) : Bool :=
  match l with
  | .reg .ctrl | .reg .cmd | .reg .status | .reg .alen | .reg .blen | .reg .fcount | .reg .acc => true
  | .reg .id | .reg .caps | .reg .insize | .reg .outsize | .reg .scrsize => false
  | .reg .errInfo | .reg .outLen | .reg .res0 | .reg .res1 | .reg .res2 => false
  | .desc _ | .inbuf _ => true
  | .outbuf _ | .reserved => false

/-- A host write while BUSY: ignored, with HAZ set where R236 says so. -/
def busyWrite (l : Loc) (s : State) : State := if hazardous l then hazard s else s

/-- A write of CTRL with SRST = 1 (10_state.md R26), honoured in every engine state (70_reset_and_hazards.md R231). -/
def isSoftReset (l : Loc) (v : Word) : Bool :=
  match l with
  | .reg .ctrl => v.getLsbD 1
  | _ => false

/-- A host write to a location: no effect while `rst` is asserted (R230); a soft reset in any engine state (R231); else
as the engine state says. -/
def hostWrite (l : Loc) (v : Word) (s : State) : State :=
  if s.rst then s
  else if isSoftReset l v then softReset s
  else
    match s.eng with
    | .idle => idleWrite l v s
    | .busy => busyWrite l s

end Sys2Proof.Machine
end

