-- ==== Sys2Proof/Machine/Polymod.lean ====
section
/-! DEFINITION. The pure functions of the checksum unit (41_polymod.md R110 to R115; constants of 00_scope.md R7). -/

namespace Sys2Proof.Machine

/-- `ChecksumVariant` (00_scope.md R3). -/
inductive Variant where
  | origin
  | bis
  deriving DecidableEq, Repr

/-- `T(var)`, the target constant (R7, R114). -/
def target (v : Variant) : Acc :=
  match v with
  | .origin => 0x00000001
  | .bis => 0x3fffffff

/-- `GEN[0]` to `GEN[4]` (R7, R110). -/
def generators : List Acc := [0x3b6a57b2, 0x26508e6d, 0x1ea119fa, 0x3d4233dd, 0x2a1462b3]

/-- XOR into `next` each generator whose bit of `top` is set, the first generator paired with bit `i` (R110: `GEN[i]`
with `top[i]`). -/
def applyGenerators (top : BitVec 5) : Nat → List Acc → Acc → Acc
  | _, [], next => next
  | i, g :: gs, next => applyGenerators top (i + 1) gs (if top.getLsbD i then next ^^^ g else next)

/-- `Step(acc, v)`: the low 25 bits shifted left by 5, the symbol XORed in, and the generators that the five bits
[29:25] select (R110). -/
def polyStep (acc : Acc) (v : Symbol) : Acc :=
  applyGenerators (acc.extractLsb' 25 5) 0 generators
    (((acc.extractLsb' 0 25).setWidth 30 <<< 5) ^^^ v.setWidth 30)

/-- The accumulator after a symbol sequence, from any start (R111, R118). -/
def polyFold (acc : Acc) (s : List Symbol) : Acc := s.foldl polyStep acc

/-- `Polymod(s)`: the accumulator starts at 1 (R111). -/
def polymod (s : List Symbol) : Acc := polyFold 1 s

/-- `h[i] >> 5`, as a symbol (0 to 7, R112). -/
def highBits (b : Byte) : Symbol := (b >>> 5).setWidth 5

/-- `h[i] & 31`, as a symbol (R112). -/
def lowBits (b : Byte) : Symbol := (b &&& 31).setWidth 5

/-- `Expand(h)`, the prefix expansion (R112). -/
def expand (h : List Byte) : List Symbol := h.map highBits ++ [0] ++ h.map lowBits

/-- `Header(h)`: the expansion of a prefix, or the single zero of an absent one (R113). -/
def header (h : List Byte) : List Symbol := if 0 < h.length then expand h else [0]

/-- The six 5-bit groups of a checksum, most significant first (R114). -/
def checksumSymbols (m : Acc) : List Symbol :=
  [m.extractLsb' 25 5, m.extractLsb' 20 5, m.extractLsb' 15 5, m.extractLsb' 10 5, m.extractLsb' 5 5,
    m.extractLsb' 0 5]

/-- The polymod of header, data and six zero placeholders, before the XOR (R114). -/
def rawChecksum (h : List Byte) (d : List Symbol) : Acc :=
  polymod (header h ++ d ++ List.replicate 6 0)

/-- `CreateChecksum(h, d, var)`: the checksum as a number and as six symbols (R114). -/
def createChecksum (h : List Byte) (d : List Symbol) (v : Variant) : Acc × List Symbol :=
  (rawChecksum h d ^^^ target v, checksumSymbols (rawChecksum h d ^^^ target v))

/-- `VerifyChecksum(h, e, var)`: whether the polymod is the target, and the polymod (R115). -/
def verifyChecksum (h : List Byte) (e : List Symbol) (v : Variant) : Bool × Acc :=
  (polymod (header h ++ e) == target v, polymod (header h ++ e))

end Sys2Proof.Machine
end

