-- ==== Sys2Proof/Machine/Base32.lean ====
section
/-! DEFINITION. The pure functions of the base-32 text codec (42_base32.md R130 to R140). -/

namespace Sys2Proof.Machine

/-- The alphabet `"qpzry9x8gf2tvdw0s3jn54khce6mua7l"` as ASCII bytes, by symbol (00_scope.md R7, R130). -/
def alphabet : List Byte :=
  [0x71, 0x70, 0x7A, 0x72, 0x79, 0x39, 0x78, 0x38, 0x67, 0x66, 0x32, 0x74, 0x76, 0x64, 0x77, 0x30,
   0x73, 0x33, 0x6A, 0x6E, 0x35, 0x34, 0x6B, 0x68, 0x63, 0x65, 0x36, 0x6D, 0x75, 0x61, 0x37, 0x6C]

/-- The separator character `1` (00_scope.md R7). -/
def separator : Byte := 0x31

/-- The length limit of the prefixed form (00_scope.md R7). -/
def lengthLimit : Nat := 90

/-- `Sym(x)` (R130). -/
def sym (x : Symbol) : Byte := alphabet.getD x.toNat 0

/-- `Val(b)`, none standing for `NONE` (R131). -/
def val (b : Byte) : Option Symbol :=
  match alphabet.findIdx? (fun c => c == b) with
  | some i => some (BitVec.ofNat 5 i)
  | none => none

/-- `IsUpper(b) = (65 ≤ b ≤ 90)` (R132). -/
def isUpper (b : Byte) : Bool := decide (65 ≤ b.toNat) && decide (b.toNat ≤ 90)

/-- `IsLower(b) = (97 ≤ b ≤ 122)` (R132). -/
def isLower (b : Byte) : Bool := decide (97 ≤ b.toNat) && decide (b.toNat ≤ 122)

/-- `Lower(b)` (R132). -/
def lower (b : Byte) : Byte := if isUpper b then b + 32 else b

/-- A byte in the printable range 33 to 126 (00_scope.md R7, R134). -/
def inCharRange (b : Byte) : Bool := decide (33 ≤ b.toNat) && decide (b.toNat ≤ 126)

/-- `lastIndexOf(s, b)`, none standing for -1 (00_scope.md R11). -/
def lastIndexOf (b : Byte) : List Byte → Option Nat
  | [] => none
  | x :: xs =>
    match lastIndexOf b xs with
    | some i => some (i + 1)
    | none => if x = b then some 0 else none

/-- The text of a checksum's data and checksum symbols, behind `<hrp>1` when there is a prefix (R133). -/
def bech32Text (h : List Byte) (symbols : List Symbol) : List Byte :=
  if 0 < h.length then h ++ [separator] ++ symbols.map sym else symbols.map sym

/-- `Bech32Encode(h, d, var)`: the text and the checksum (R133). It checks nothing. -/
def bech32Encode (h : List Byte) (d : List Symbol) (v : Variant) : List Byte × Acc :=
  (bech32Text h (d ++ (createChecksum h d v).2), (createChecksum h d v).1)

/-- What a text decodes to: prefix, data symbols without the checksum, variant (R134). -/
structure Decoded where
  hrp : List Byte
  data : List Symbol
  variant : Variant
  deriving DecidableEq, Repr

/-- The symbols of a text whose first byte has index `i` in the whole text; it fails at the first byte that is not in the
alphabet (R134). -/
def textSymbols : Nat → List Byte → Except CodecFail (List Symbol)
  | _, [] => .ok []
  | i, b :: rest =>
    match val b with
    | none => .error ⟨.notInAlphabet, i⟩
    | some x =>
      match textSymbols (i + 1) rest with
      | .error e => .error e
      | .ok xs => .ok (x :: xs)

/-- The last step of both forms: verify the checksum over all symbols and drop the trailing six (R134). -/
def checkedData (h : List Byte) (e : List Symbol) (v : Variant) : Except CodecFail Decoded :=
  if (verifyChecksum h e v).1 then .ok ⟨h, e.take (e.length - 6), v⟩ else .error ⟨.invalidChecksum, 0⟩

/-- The prefix-less form of R134, of a lowercased text. -/
def decodeBis (u : List Byte) : Except CodecFail Decoded :=
  match textSymbols 0 u with
  | .error e => .error e
  | .ok e => checkedData [] e .bis

/-- The prefixed form of R134, of a lowercased text whose last `1` is at `pos`. -/
def decodeOrigin (u : List Byte) (pos : Nat) : Except CodecFail Decoded :=
  if pos < 1 then .error ⟨.separatorPosition, pos⟩
  else if u.length < pos + 7 then .error ⟨.separatorPosition, pos⟩
  else if lengthLimit < u.length then .error ⟨.lengthExceeded, u.length⟩
  else
    match textSymbols (pos + 1) (u.drop (pos + 1)) with
    | .error e => .error e
    | .ok e => checkedData (u.take pos) e .origin

/-- `Bech32Decode(t)`, its checks in the order of R134, which is their priority (R135). -/
def bech32Decode (t : List Byte) : Except CodecFail Decoded :=
  match t.findIdx? (fun b => !inCharRange b) with
  | some i => .error ⟨.invalidCharRange, i⟩
  | none =>
    if t.any isLower && t.any isUpper then .error ⟨.mixedCase, 0⟩
    else
      match lastIndexOf separator (t.map lower) with
      | none => decodeBis (t.map lower)
      | some pos => decodeOrigin (t.map lower) pos

/-- One input group of a regrouping: shift `x` into the 12-bit accumulator and count its bits (R137, R138). -/
def shiftIn (acc : BitVec 12) (width : Nat) (x : BitVec 12) : BitVec 12 := (acc <<< width) ||| x

/-- `while bits >= 5`: the whole 5-bit groups that stand in the accumulator, most significant first (R137). At most two
stand there, since fewer than 5 bits were left over and 8 came in. -/
def groups5 (acc : BitVec 12) (bits : Nat) : List Symbol :=
  if 10 ≤ bits then [(acc >>> (bits - 5)).setWidth 5, (acc >>> (bits - 10)).setWidth 5]
  else if 5 ≤ bits then [(acc >>> (bits - 5)).setWidth 5]
  else []

/-- The loop of `Pack8to5` from an accumulator and its count of pending bits, and the zero-padded last group (R137). -/
def packFrom : BitVec 12 → Nat → List Byte → List Symbol
  | acc, bits, [] => if 0 < bits then [(acc <<< (5 - bits)).setWidth 5] else []
  | acc, bits, b :: rest =>
    groups5 (shiftIn acc 8 (b.setWidth 12)) (bits + 8) ++
      packFrom (shiftIn acc 8 (b.setWidth 12)) ((bits + 8) % 5) rest

/-- `Pack8to5(b)` (R137). -/
def pack8to5 (b : List Byte) : List Symbol := packFrom 0 0 b

/-- `while bits >= 8`: the whole byte that stands in the accumulator, if one does (R138). At most one, since fewer than 8
bits were left over and 5 came in. -/
def groups8 (acc : BitVec 12) (bits : Nat) : List Byte :=
  if 8 ≤ bits then [(acc >>> (bits - 8)).setWidth 8] else []

/-- The loop of `Unpack5to8` (R138): the bytes, and what is left over, the accumulator and its count of bits. -/
def unpackFrom : BitVec 12 → Nat → List Symbol → List Byte × BitVec 12 × Nat
  | acc, bits, [] => ([], acc, bits)
  | acc, bits, x :: rest =>
    (groups8 (shiftIn acc 5 (x.setWidth 12)) (bits + 5) ++
        (unpackFrom (shiftIn acc 5 (x.setWidth 12)) ((bits + 5) % 8) rest).1,
      (unpackFrom (shiftIn acc 5 (x.setWidth 12)) ((bits + 5) % 8) rest).2)

/-- `acc & ((1 << bits) - 1) ≠ 0`: some leftover bit is set (R138). -/
def leftoverSet (acc : BitVec 12) (bits : Nat) : Bool := acc.toNat % 2 ^ bits != 0

/-- `Unpack5to8(s)`, strict: fewer than 5 leftover bits, all zero (R138). -/
def unpack5to8 (s : List Symbol) : Except CodecFail (List Byte) :=
  match unpackFrom 0 0 s with
  | (out, acc, bits) =>
    if 5 ≤ bits then .error ⟨.invalidPadding, s.length⟩
    else if leftoverSet acc bits then .error ⟨.invalidPadding, s.length⟩
    else .ok out

/-- `EncodeData(b)`: prefix-less Bis text, and the checksum (R139). -/
def encodeData (b : List Byte) : List Byte × Acc := bech32Encode [] (pack8to5 b) .bis

/-- `DecodeData(t)`: either form accepted; the bytes and what the text decoded to (R140). -/
def decodeData (t : List Byte) : Except CodecFail (List Byte × Decoded) :=
  match bech32Decode t with
  | .error e => .error e
  | .ok r =>
    match unpack5to8 r.data with
    | .error e => .error e
    | .ok bytes => .ok (bytes, r)

end Sys2Proof.Machine
end

