-- ==== Sys2Proof/Machine/Ur.lean ====
section
/-! DEFINITION. The pure functions of the UR fragment parser and reassembly validator (43_ur.md R161 to R171). The hash
is an argument of the functions that use it, "a function of the byte sequence" that "returns 32 bytes"
(00_scope.md R9). -/

namespace Sys2Proof.Machine

/-- The part separator `/` (00_scope.md R7). -/
def partSeparator : Byte := 0x2F

/-- `split(s, b)`: the maximal pieces between occurrences of `b`, empty ones kept (00_scope.md R11). -/
def splitOn (b : Byte) : List Byte → List (List Byte)
  | [] => [[]]
  | x :: xs =>
    if x = b then [] :: splitOn b xs
    else
      match splitOn b xs with
      | [] => [[x]]
      | p :: ps => (x :: p) :: ps

/-- The parts of a fragment (R161). -/
def parts (f : List Byte) : List (List Byte) := splitOn partSeparator f

/-- The part count as ERR_INFO.DETAIL reports it, `min(np, 0xFFFF)` (R166, R169, R170). -/
def shapeDetail (np : Nat) : Nat := min np 0xFFFF

/-- `Fold(s)` (R162). -/
def fold (s : List Byte) : List Byte := s.map lower

/-- `"ur:"` as ASCII bytes. -/
def urScheme : List Byte := [0x75, 0x72, 0x3A]

/-- The default type `"bytes"` as ASCII bytes (00_scope.md R7, R165). -/
def defaultType : List Byte := [0x62, 0x79, 0x74, 0x65, 0x73]

/-- `HeaderMatches(p0, type)` (R163). -/
def headerMatches (p0 type : List Byte) : Bool := fold p0 == fold (urScheme ++ type)

/-- A byte in `'0' .. '9'` (R164). -/
def isDigit (b : Byte) : Bool := decide (48 ≤ b.toNat) && decide (b.toNat ≤ 57)

/-- The decimal value of a digit sequence (R164). -/
def decimalValue (ds : List Byte) : Nat := ds.foldl (fun n b => 10 * n + (b.toNat - 48)) 0

/-- The letters `o`, `O` (R164). -/
def isO (b : Byte) : Bool := b == 0x6F || b == 0x4F

/-- The letters `f`, `F` (R164). -/
def isF (b : Byte) : Bool := b == 0x66 || b == 0x46

/-- The values of the two digit sequences, when both fit 32 bits (R164, reason 2 otherwise). -/
def seqValues (a b : List Byte) : Except CodecFail (Nat × Nat) :=
  if 0xFFFFFFFF < decimalValue a ∨ 0xFFFFFFFF < decimalValue b then .error ⟨.invalidSequencing, 2⟩
  else .ok (decimalValue a, decimalValue b)

/-- `ParseSeq(tok)`: `DIGIT+ ("of" in any case) DIGIT+`, reason 1 for any other token (R164). The first piece is the
token's longest run of leading digits, since the letter after it is none. -/
def parseSeq (tok : List Byte) : Except CodecFail (Nat × Nat) :=
  match tok.dropWhile isDigit with
  | o :: f :: b =>
    if isO o && isF f && !(tok.takeWhile isDigit).isEmpty && !b.isEmpty && b.all isDigit then
      seqValues (tok.takeWhile isDigit) b
    else .error ⟨.invalidSequencing, 1⟩
  | _ => .error ⟨.invalidSequencing, 1⟩

/-- What a probe finds: index, total, part count (R166). -/
structure Probed where
  index : Nat
  total : Nat
  np : Nat
  deriving DecidableEq, Repr

/-- The four-part case of a probe (R166). -/
def probeToken (tok : List Byte) : Except CmdError Probed :=
  match parseSeq tok with
  | .error e => .error (e.at noFrag 3)
  | .ok (index, total) =>
    if index < 1 ∨ total < index then .error ⟨.invalidSequencing, 4, noFrag, 3⟩
    else .ok ⟨index, total, 4⟩

/-- `Probe(f)` (R166). -/
def probe (f : List Byte) : Except CmdError Probed :=
  match parts f with
  | [_, _] => .ok ⟨1, 1, 2⟩
  | [_, _, _] => .ok ⟨1, 1, 3⟩
  | [_, tok, _, _] => probeToken tok
  | ps => .error ⟨.malformedShape, shapeDetail ps.length, noFrag, 0⟩

/-- `DigestCheck(dg, pl, frag)` (R167): decode the digest, then the payload, then compare. -/
def digestCheck (sha : List Byte → List Byte) (dg pl : List Byte) (frag : Nat) : Except CmdError (List Byte) :=
  match decodeData dg with
  | .error e => .error (e.at frag 4)
  | .ok (dd, _) =>
    match decodeData pl with
    | .error e => .error (e.at frag 5)
    | .ok (pb, _) =>
      if dd.length ≠ 32 ∨ dd ≠ sha pb then .error ⟨.digestMismatch, 0, frag, 4⟩ else .ok pb

/-- What a fragment set decodes to: the framed bytes, the total, whether a digest was checked, the length of the payload
text (R168). -/
structure UrDecoded where
  bytes : List Byte
  total : Nat
  checked : Nat
  plen : Nat
  deriving DecidableEq, Repr

/-- The two-part case of a single fragment: no digest check (R169). -/
def urSingleData (type p0 pl : List Byte) : Except CmdError UrDecoded :=
  if headerMatches p0 type then
    match decodeData pl with
    | .error e => .error (e.at 0 5)
    | .ok (b, _) => .ok ⟨b, 1, 0, pl.length⟩
  else .error ⟨.malformedHeader, 0, 0, 2⟩

/-- The three-part case of a single fragment (R169). -/
def urSingleDigest (sha : List Byte → List Byte) (type p0 dg pl : List Byte) : Except CmdError UrDecoded :=
  if headerMatches p0 type then
    match digestCheck sha dg pl 0 with
    | .error e => .error e
    | .ok b => .ok ⟨b, 1, 1, pl.length⟩
  else .error ⟨.malformedHeader, 0, 0, 2⟩

/-- `URSingle(type, f)` (R169). -/
def urSingle (sha : List Byte → List Byte) (type f : List Byte) : Except CmdError UrDecoded :=
  match parts f with
  | [p0, pl] => urSingleData type p0 pl
  | [p0, dg, pl] => urSingleDigest sha type p0 dg pl
  | ps => .error ⟨.malformedShape, shapeDetail ps.length, 0, 0⟩

/-- The hidden state of a multi-fragment decode (10_state.md R42): the slot array, a slot being none until it is set,
and the first digest field seen. -/
structure Assembly where
  slots : List (Option (List Byte))
  digest : Option (List Byte)
  deriving DecidableEq, Repr

/-- Place one fragment whose index and total have parsed, in a set of `n` (R170: total, range, digest, duplicate). -/
def placeChunk (n k i t : Nat) (dg chunk : List Byte) (a : Assembly) : Except CmdError Assembly :=
  if t ≠ n then .error ⟨.invalidSequencing, 3, k, 3⟩
  else if i < 1 ∨ t < i then .error ⟨.invalidSequencing, 4, k, 3⟩
  else if a.digest ≠ none ∧ a.digest ≠ some dg then .error ⟨.digestInconsistent, 0, k, 4⟩
  else if (a.slots.getD (i - 1) none).isSome then .error ⟨.duplicateIndex, i, k, 3⟩
  else .ok ⟨a.slots.set (i - 1) (some chunk), some dg⟩

/-- The pass of R170 over one fragment, the `k`-th of a set of `n`. -/
def placeFragment (type : List Byte) (n k : Nat) (f : List Byte) (a : Assembly) : Except CmdError Assembly :=
  match parts f with
  | [p0, tok, dg, chunk] =>
    if headerMatches p0 type then
      match parseSeq tok with
      | .error e => .error (e.at k 3)
      | .ok (i, t) => placeChunk n k i t dg chunk a
    else .error ⟨.malformedHeader, 0, k, 2⟩
  | ps => .error ⟨.malformedShape, shapeDetail ps.length, k, 0⟩

/-- The pass of R170 over the fragments from the `k`-th on, in descriptor order. -/
def placeAll (type : List Byte) (n : Nat) : Nat → List (List Byte) → Assembly → Except CmdError Assembly
  | _, [], a => .ok a
  | k, f :: rest, a =>
    match placeFragment type n k f a with
    | .error e => .error e
    | .ok a' => placeAll type n (k + 1) rest a'

/-- The concatenation of the slots in index order (R171). -/
def assembled (slots : List (Option (List Byte))) : List Byte := (slots.map (fun c => c.getD [])).flatten

/-- The final pass (R171), for a set of `n`. -/
def urFinish (sha : List Byte → List Byte) (scratch n : Nat) (a : Assembly) : Except CmdError UrDecoded :=
  if scratch < (assembled a.slots).length then .error ⟨.outOverflow, 2, noFrag, 5⟩
  else
    match digestCheck sha (a.digest.getD []) (assembled a.slots) noFrag with
    | .error e => .error e
    | .ok b => .ok ⟨b, n, 1, (assembled a.slots).length⟩

/-- `URMulti(type, F)` (R170, R171). -/
def urMulti (sha : List Byte → List Byte) (scratch : Nat) (type : List Byte) (fs : List (List Byte)) :
    Except CmdError UrDecoded :=
  match placeAll type fs.length 0 fs ⟨List.replicate fs.length none, none⟩ with
  | .error e => .error e
  | .ok a => urFinish sha scratch fs.length a

/-- `URDecode(type, F)` (R168). -/
def urDecode (sha : List Byte → List Byte) (scratch : Nat) (type : List Byte) (fs : List (List Byte)) :
    Except CmdError UrDecoded :=
  match fs with
  | [] => .error ⟨.emptySet, 0, noFrag, 0⟩
  | [f] => urSingle sha type f
  | fs => urMulti sha scratch type fs

end Sys2Proof.Machine
end

