-- ==== Sys2Proof/Machine/Operands.lean ====
section
/-! DEFINITION. The operands of the commands and the checks on them (30_encoding.md R72 to R74, 40_command_engine.md R95,
R96). The engine reads the live registers and buffers, which equal the snapshot at issue (10_state.md R41). -/

namespace Sys2Proof.Machine

/-- The prefix operand (or the type string), `INBUF[0..ALEN)` (R74). -/
def State.hrpBytes (s : State) : List Byte := s.inRead 0 s.alen.toNat

/-- The symbol operand behind a prefix, `INBUF[ALEN..ALEN+BLEN)` (R74). -/
def State.tailBytes (s : State) : List Byte := s.inRead s.alen.toNat s.blen.toNat

/-- The text, bytes, fragment or symbol operand at the start of INBUF, `INBUF[0..BLEN)` (R74). -/
def State.textBytes (s : State) : List Byte := s.inRead 0 s.blen.toNat

/-- `DESC[k].OFF` (R72). -/
def State.descOff (s : State) (k : Nat) : Nat := ((s.descWord k).extractLsb' 0 16).toNat

/-- `DESC[k].LEN` (R72). -/
def State.descLen (s : State) (k : Nat) : Nat := ((s.descWord k).extractLsb' 16 16).toNat

/-- The fragment `InRead(DESC[k].OFF, DESC[k].LEN)` (R72). -/
def State.fragment (s : State) (k : Nat) : List Byte := s.inRead (s.descOff k) (s.descLen k)

/-- The fragment list of UR_DECODE in descriptor order (R72, R74). -/
def State.fragments (s : State) : List (List Byte) := (List.range s.fcount.toNat).map s.fragment

/-- `ExpType`: `INBUF[0..ALEN)`, or `"bytes"` when ALEN is 0 (43_ur.md R165). -/
def State.expType (s : State) : List Byte := if 0 < s.alen.toNat then s.hrpBytes else defaultType

/-- An argument check that failed (R95). -/
def argError (detail frag : Nat) : CmdError := ⟨.argRange, detail, frag, 0⟩

/-- `BLEN ≤ IN_BYTES` (R95). -/
def checkBlen (s : State) : Except CmdError Unit :=
  require (decide (s.blen.toNat ≤ s.params.inBytes)) (argError 2 noFrag)

/-- `ALEN ≤ IN_BYTES` (R95). -/
def checkAlen (s : State) : Except CmdError Unit :=
  require (decide (s.alen.toNat ≤ s.params.inBytes)) (argError 1 noFrag)

/-- `ALEN + BLEN ≤ IN_BYTES`, the sum not wrapping (R95). -/
def checkBoth (s : State) : Except CmdError Unit :=
  require (decide (s.alen.toNat + s.blen.toNat ≤ s.params.inBytes)) (argError 3 noFrag)

/-- `FCOUNT ≤ MAX_FRAGS` (R95). -/
def checkCount (s : State) : Except CmdError Unit :=
  require (decide (s.fcount.toNat ≤ s.params.maxFrags)) (argError 4 noFrag)

/-- `DESC[k].OFF + DESC[k].LEN ≤ IN_BYTES` for the `n` descriptors from the `k`-th on, in order, the sum not wrapping
(R72, R95). -/
def checkDescs (s : State) : Nat → Nat → Except CmdError Unit
  | _, 0 => .ok ()
  | k, n + 1 =>
    if s.descOff k + s.descLen k ≤ s.params.inBytes then checkDescs s (k + 1) n else .error (argError 5 k)

/-- A symbol operand, whose first byte has index `i` in it: each byte is 0 to 31, else INVALID_SYMBOL at the first that
is not (R74, 41_polymod.md R118, R120). -/
def symbolOperand : Nat → List Byte → Except CmdError (List Symbol)
  | _, [] => .ok []
  | i, b :: rest =>
    if 31 < b.toNat then .error ⟨.invalidSymbol, i, noFrag, 0⟩
    else
      match symbolOperand (i + 1) rest with
      | .error e => .error e
      | .ok xs => .ok (b.setWidth 5 :: xs)

/-- The output capacity check: `len(x) ≤ OUT_BYTES`, after every other check (R96). -/
def checkOut (s : State) (x : List Byte) : Except CmdError Unit :=
  require (decide (x.length ≤ s.params.outBytes)) ⟨.outOverflow, 1, noFrag, 0⟩

/-- Symbols as OUTBUF bytes, one a byte (20_memory.md R52). -/
def symbolBytes (xs : List Symbol) : List Byte := xs.map (fun x => x.setWidth 8)

/-- A length or a count as a result word. -/
def countWord (n : Nat) : Word := BitVec.ofNat 32 n

/-- A 30-bit value as a result word, `zext_32` (00_scope.md R10). -/
def accWord (a : Acc) : Word := a.setWidth 32

/-- The variant flag of a decoded text: 1 for Bis, 0 for Origin (42_base32.md R142). -/
def variantWord (v : Variant) : Word :=
  match v with
  | .origin => 0
  | .bis => 1

/-- Write the three result words (10_state.md R36). -/
def State.results (s : State) (r0 r1 r2 : Word) : State := { s with res0 := r0, res1 := r1, res2 := r2 }

end Sys2Proof.Machine
end

