-- ==== Sys2Proof/Machine/Checksum.lean ====
section
/-! DEFINITION. The meanings of the checksum commands: POLY.INIT, POLY.STEP, POLY.RUN, HRP.EXPAND, CHK.CREATE and
CHK.VERIFY (41_polymod.md R116 to R121). A command that writes no output leaves every OUTBUF byte unspecified, because
OUT_LEN is 0 after it (10_state.md R39; log 7). -/

namespace Sys2Proof.Machine

/-- POLY.INIT: `ACC <- 1` (R116). -/
def execPolyInit (s : State) : Host.Outcome State Fault Refusal :=
  settle s (.ok { s.spoilOut with acc := 1 })

/-- POLY.STEP: `ACC <- Step(ACC, SYM)` (R117). -/
def execPolyStep (symbol : Nat) (s : State) : Host.Outcome State Fault Refusal :=
  settle s (.ok { s.spoilOut with acc := polyStep s.acc (BitVec.ofNat 5 symbol) })

/-- POLY.RUN: ACC stepped over `INBUF[0..BLEN)`, the whole operand checked first (R118). -/
def execPolyRun (s : State) : Host.Outcome State Fault Refusal :=
  settle s do
    checkBlen s
    let xs ← symbolOperand 0 s.textBytes
    return { s.spoilOut with acc := polyFold s.acc xs }

/-- HRP.EXPAND: the expansion of `INBUF[0..ALEN)` to OUTBUF (R119). -/
def execHrpExpand (s : State) : Host.Outcome State Fault Refusal :=
  settle s do
    checkAlen s
    let x := symbolBytes (expand s.hrpBytes)
    checkOut s x
    return s.outWrite x

/-- CHK_CREATE with a variant: the six checksum symbols to OUTBUF, the checksum to RES0, the raw polymod to RES1 (R120).
`OUT_BYTES ≥ 256`, so there is no capacity check. -/
def chkCreate (v : Variant) (s : State) : Host.Outcome State Fault Refusal :=
  settle s do
    checkBoth s
    let d ← symbolOperand 0 s.tailBytes
    let (m, c) := createChecksum s.hrpBytes d v
    return (s.outWrite (symbolBytes c)).results (accWord m) (accWord (m ^^^ target v)) s.res2

/-- CHK.CREATE.O (R120). -/
def execChkCreateO (s : State) : Host.Outcome State Fault Refusal := chkCreate .origin s

/-- CHK.CREATE.B (R120). -/
def execChkCreateB (s : State) : Host.Outcome State Fault Refusal := chkCreate .bis s

/-- CHK_VERIFY with a variant: 1 or 0 to RES0, the polymod to RES1; a wrong checksum is a result, not an error
(R121). -/
def chkVerify (v : Variant) (s : State) : Host.Outcome State Fault Refusal :=
  settle s do
    checkBoth s
    let e ← symbolOperand 0 s.tailBytes
    let (valid, p) := verifyChecksum s.hrpBytes e v
    return s.spoilOut.results (if valid then 1 else 0) (accWord p) s.res2

/-- CHK.VERIFY.O (R121). -/
def execChkVerifyO (s : State) : Host.Outcome State Fault Refusal := chkVerify .origin s

/-- CHK.VERIFY.B (R121). -/
def execChkVerifyB (s : State) : Host.Outcome State Fault Refusal := chkVerify .bis s

end Sys2Proof.Machine
end

