-- ==== Sys2Proof/Machine/Codec.lean ====
section
/-! DEFINITION. The meanings of the base-32 commands: B32.ENC, B32.DEC, B32.ENCD, B32.DECD (42_base32.md R141 to
R144). -/

namespace Sys2Proof.Machine

/-- B32_ENCODE with a variant: the text to OUTBUF, the checksum to RES0 (R141). -/
def b32Encode (v : Variant) (s : State) : Host.Outcome State Fault Refusal :=
  settle s do
    checkBoth s
    let d ← symbolOperand 0 s.tailBytes
    let (text, m) := bech32Encode s.hrpBytes d v
    checkOut s text
    return (s.outWrite text).results (accWord m) s.res1 s.res2

/-- B32.ENC.O (R141). -/
def execB32EncO (s : State) : Host.Outcome State Fault Refusal := b32Encode .origin s

/-- B32.ENC.B (R141). -/
def execB32EncB (s : State) : Host.Outcome State Fault Refusal := b32Encode .bis s

/-- B32.DEC: prefix and data symbols to OUTBUF, their lengths to RES0 and RES1, the form to RES2 (R142). -/
def execB32Dec (s : State) : Host.Outcome State Fault Refusal :=
  settle s do
    checkBlen s
    let r ← liftCodec (bech32Decode s.textBytes) noFrag 1
    let x := r.hrp ++ symbolBytes r.data
    checkOut s x
    return (s.outWrite x).results (countWord r.hrp.length) (countWord r.data.length) (variantWord r.variant)

/-- B32.ENCD: bytes to prefix-less Bis text (R143). -/
def execB32Encd (s : State) : Host.Outcome State Fault Refusal :=
  settle s do
    checkBlen s
    let (text, m) := encodeData s.textBytes
    checkOut s text
    return (s.outWrite text).results (accWord m) (countWord (pack8to5 s.textBytes).length) s.res2

/-- B32.DECD: text of either form to bytes (R144). -/
def execB32Decd (s : State) : Host.Outcome State Fault Refusal :=
  settle s do
    checkBlen s
    let (bytes, r) ← liftCodec (decodeData s.textBytes) noFrag 1
    checkOut s bytes
    return (s.outWrite bytes).results (countWord r.hrp.length) (countWord r.data.length) (variantWord r.variant)

end Sys2Proof.Machine
end

