-- ==== Sys2Proof/Machine/Control.lean ====
section
/-! DEFINITION. The meaning of the control command NOP (40_command_engine.md R97). -/

namespace Sys2Proof.Machine

/-- NOP: `complete(OK)` alone. "OUTBUF bytes keep their values" (R97), so nothing becomes unspecified (log 17). -/
def execNop (s : State) : Host.Outcome State Fault Refusal := settle s (.ok s)

end Sys2Proof.Machine
end

