-- ==== Sys2Proof/Machine/Sha256.lean ====
section
/-! DEFINITION. `SHA256(bytes) -> 32 bytes` (00_scope.md R9): the spec leaves its internals out and says its definition is
FIPS 180-4 SHA-256. PRESUMED: the text below is written from general knowledge of FIPS 180-4 (log 10). Its
constants are computed from what they are, the roots of the first primes, and not copied as a table. -/

namespace Sys2Proof.Machine

/-- The eight working words of the hash. -/
structure ShaState where
  a : Word
  b : Word
  c : Word
  d : Word
  e : Word
  f : Word
  g : Word
  h : Word
  deriving DecidableEq, Repr

/-- The integer part of the `e`-th root of `n`, when it is below `2 ^ bits` and the search starts from 0: one bit at a time
from the top, `r` being what is found so far. -/
def intRoot (e n : Nat) : Nat → Nat → Nat
  | 0, r => r
  | bits + 1, r => intRoot e n bits (if (r + 2 ^ bits) ^ e ≤ n then r + 2 ^ bits else r)

/-- The first 32 bits of the fractional part of the `e`-th root of `p`. The roots taken here are below 32, so their
integer part has at most five bits. -/
def rootFraction (e p : Nat) : Word := BitVec.ofNat 32 (intRoot e (p * 2 ^ (32 * e)) 37 0)

/-- The first 64 primes. -/
def shaPrimes : List Nat :=
  [2, 3, 5, 7, 11, 13, 17, 19, 23, 29, 31, 37, 41, 43, 47, 53, 59, 61, 67, 71, 73, 79] ++
  [83, 89, 97, 101, 103, 107, 109, 113, 127, 131, 137, 139, 149, 151, 157, 163, 167, 173, 179, 181, 191] ++
  [193, 197, 199, 211, 223, 227, 229, 233, 239, 241, 251, 257, 263, 269, 271, 277, 281, 283, 293, 307, 311]

/-- The initial hash value: the square roots of the first eight primes. -/
def shaInitial : ShaState where
  a := rootFraction 2 2
  b := rootFraction 2 3
  c := rootFraction 2 5
  d := rootFraction 2 7
  e := rootFraction 2 11
  f := rootFraction 2 13
  g := rootFraction 2 17
  h := rootFraction 2 19

/-- The 64 round constants: the cube roots of the first 64 primes. -/
def shaConstants : List Word := shaPrimes.map (rootFraction 3)

/-- Three rotations of a word to the right, XORed. -/
def rotations (i j k : Nat) (x : Word) : Word := x.rotateRight i ^^^ x.rotateRight j ^^^ x.rotateRight k

/-- Two rotations and a shift of a word to the right, XORed. -/
def rotationsShift (i j k : Nat) (x : Word) : Word := x.rotateRight i ^^^ x.rotateRight j ^^^ (x >>> k)

/-- Bit by bit, `y` where `x` is 1 and `z` where it is 0. -/
def choose (x y z : Word) : Word := z ^^^ (x &&& (y ^^^ z))

/-- Bit by bit, the value that two or three of the words have. -/
def majority (x y z : Word) : Word := (x &&& y) ||| (z &&& (x ||| y))

/-- The message schedule's next word from the last sixteen, oldest first. -/
def shaNextWord (w : List Word) : Word :=
  w.getD 0 0 + rotationsShift 7 18 3 (w.getD 1 0) + w.getD 9 0 + rotationsShift 17 19 10 (w.getD 14 0)

/-- What a round adds to `d` and to the new `a`: its constant, its schedule word and the words `e` to `h`. -/
def roundInput (s : ShaState) (k w : Word) : Word :=
  k + w + s.h + choose s.e s.f s.g + rotations 6 11 25 s.e

/-- One round with its constant and its schedule word. -/
def shaRound (s : ShaState) (k w : Word) : ShaState where
  a := roundInput s k w + majority s.a s.b s.c + rotations 2 13 22 s.a
  b := s.a
  c := s.b
  d := s.c
  e := roundInput s k w + s.d
  f := s.e
  g := s.f
  h := s.g

/-- The rounds over the given constants, with a window of sixteen schedule words. -/
def shaRounds : List Word → List Word → ShaState → ShaState
  | [], _, s => s
  | k :: ks, w, s => shaRounds ks (w.drop 1 ++ [shaNextWord w]) (shaRound s k (w.getD 0 0))

/-- Add two hash values word by word. -/
def shaAdd (s t : ShaState) : ShaState where
  a := s.a + t.a
  b := s.b + t.b
  c := s.c + t.c
  d := s.d + t.d
  e := s.e + t.e
  f := s.f + t.f
  g := s.g + t.g
  h := s.h + t.h

/-- The hash value after `n` blocks of sixteen words. -/
def shaBlocks : Nat → List Word → ShaState → ShaState
  | 0, _, s => s
  | n + 1, ws, s => shaBlocks n (ws.drop 16) (shaAdd s (shaRounds shaConstants (ws.take 16) s))

/-- Big-endian words of a byte sequence whose length is a multiple of four. -/
def shaWords : List Byte → List Word
  | b0 :: b1 :: b2 :: b3 :: rest => (b0 ++ b1 ++ b2 ++ b3) :: shaWords rest
  | _ => []

/-- Big-endian bytes of a word. -/
def shaWordBytes (w : Word) : List Byte :=
  [w.extractLsb' 24 8, w.extractLsb' 16 8, w.extractLsb' 8 8, w.extractLsb' 0 8]

/-- The padding of a message of `n` bytes: `0x80`, zeros, and the length in bits as 64 bits. -/
def shaPadding (n : Nat) : List Byte :=
  [0x80] ++ List.replicate ((119 - n % 64) % 64) 0 ++
    shaWordBytes (BitVec.ofNat 32 (8 * n / 2 ^ 32)) ++ shaWordBytes (BitVec.ofNat 32 (8 * n))

/-- The 32 bytes of a hash value. -/
def shaBytes (s : ShaState) : List Byte := [s.a, s.b, s.c, s.d, s.e, s.f, s.g, s.h].flatMap shaWordBytes

/-- `SHA256` of a byte sequence, 32 bytes (R9). -/
def sha256 (m : List Byte) : List Byte :=
  shaBytes (shaBlocks ((m.length + 72) / 64) (shaWords (m ++ shaPadding m.length)) shaInitial)

end Sys2Proof.Machine
end

