-- ==== Sys2Proof/Machine/Fragments.lean ====
section
/-! DEFINITION. The meanings of the UR commands: UR.PROBE and UR.DEC (43_ur.md R172, R173). -/

namespace Sys2Proof.Machine

/-- UR.PROBE: index, total and part count to RES0 to RES2 (R172). -/
def execUrProbe (s : State) : Host.Outcome State Fault Refusal :=
  settle s do
    checkBlen s
    let r ← probe s.textBytes
    return s.spoilOut.results (countWord r.index) (countWord r.total) (countWord r.np)

/-- UR.DEC: the framed payload bytes to OUTBUF; total, whether a digest was checked and the payload text's length to
RES0 to RES2 (R173). -/
def execUrDec (s : State) : Host.Outcome State Fault Refusal :=
  settle s do
    checkAlen s
    checkCount s
    checkDescs s 0 s.fcount.toNat
    let r ← urDecode sha256 s.params.scratchBytes s.expType s.fragments
    checkOut s r.bytes
    return (s.outWrite r.bytes).results (countWord r.total) (countWord r.checked) (countWord r.plen)

end Sys2Proof.Machine
end

