-- ==== Sys2Proof/Machine/Dispatch.lean ====
section
/-! DEFINITION. The dispatcher of the completion step (40_command_engine.md R101): one arm per command. -/

namespace Sys2Proof.Machine

/-- `Exec(c)` (R101). The illegal word is the engine's own case (Machine/Engine.lean). -/
def exec (i : Instr) (s : State) : Host.Outcome State Fault Refusal :=
  match i with
  | .nop => Sys2Proof.Machine.execNop s
  | .polyInit => Sys2Proof.Machine.execPolyInit s
  | .polyStep symbol => Sys2Proof.Machine.execPolyStep symbol s
  | .polyRun => Sys2Proof.Machine.execPolyRun s
  | .hrpExpand => Sys2Proof.Machine.execHrpExpand s
  | .chkCreateO => Sys2Proof.Machine.execChkCreateO s
  | .chkCreateB => Sys2Proof.Machine.execChkCreateB s
  | .chkVerifyO => Sys2Proof.Machine.execChkVerifyO s
  | .chkVerifyB => Sys2Proof.Machine.execChkVerifyB s
  | .b32EncO => Sys2Proof.Machine.execB32EncO s
  | .b32EncB => Sys2Proof.Machine.execB32EncB s
  | .b32Dec => Sys2Proof.Machine.execB32Dec s
  | .b32Encd => Sys2Proof.Machine.execB32Encd s
  | .b32Decd => Sys2Proof.Machine.execB32Decd s
  | .urProbe => Sys2Proof.Machine.execUrProbe s
  | .urDec => Sys2Proof.Machine.execUrDec s

end Sys2Proof.Machine
end

