-- ==== Sys2Proof/Machine/Engine.lean ====
section
/-! DEFINITION. The engine's completion step and what each event from outside does (40_command_engine.md R92, R101,
70_reset_and_hazards.md R230, R234). -/

namespace Sys2Proof.Machine

/-- The completion step: `Exec(Decode(reg(CMD)))` (R92, R98, R101). -/
def completion (s : State) : Host.Outcome State Fault Refusal :=
  match decode s.cmd with
  | .ok i => exec i s
  | .error _ => .next (completeIllegal s)

/-- The engine's turn: its one enabled step while BUSY, nothing while IDLE (R92) or while `rst` is asserted (R230). -/
def engineTurn (s : State) : Host.Outcome State Fault Refusal :=
  if s.rst then .next s
  else
    match s.eng with
    | .idle => .next s
    | .busy => completion s

/-- One event from outside. A host access outside the window is not the block's (10_state.md R20; log 12). `rst` puts the
block into the hard-reset column when it is asserted and holds it there (R230; log 9). -/
def deliver (e : Input) (s : State) : Host.Outcome State Fault Refusal :=
  match e with
  | .read addr =>
    match locateBus s.params addr with
    | some l => .next (hostRead l s)
    | none => .fault .outsideWindow
  | .write addr v =>
    match locateBus s.params addr with
    | some l => .next (hostWrite l v s)
    | none => .fault .outsideWindow
  | .engine => engineTurn s
  | .assertRst => .next { hardReset s with rst := true }
  | .releaseRst => .next { s with rst := false }

/-- The event this step takes: the next from outside, or the engine's turn when none is left (logs 1 and 2). -/
def State.nextInput (s : State) : Input :=
  match s.inputs with
  | [] => .engine
  | e :: _ => e

/-- The state in which that event is taken: it is no longer pending, and the bus answers nothing yet (log 3). -/
def State.popInput (s : State) : State := { s with inputs := s.inputs.tail, answer := none }

/-- One step of the block: the next event. -/
def advance (s : State) : Host.Outcome State Fault Refusal := deliver s.nextInput s.popInput

/-- The state right after the host has issued the word `w` (R91), `rst` not asserted, with the completion step next: the
very next step executes `w` (log 13). -/
def issued (w : Word) (s : State) : State :=
  { issue w s with rst := false, inputs := .engine :: s.inputs }

end Sys2Proof.Machine
end

