-- ==== Sys2Proof/Machine/Step.lean ====
section
/-! DEFINITION. One step of the machine, and the state whose next step runs a given command word. -/

namespace Sys2Proof.Machine

/-- One step: the next host access, reset event or completion step. -/
def step (s : State) : Host.Outcome State Fault Refusal := advance s

/-- `s` with the command word `w` where the engine fetches it: latched in CMD as an issue leaves it
(40_command_engine.md R91), the completion step next (log 13). -/
def State.withFetchWord (s : State) (nbits w : Nat) : State := issued (tableWord nbits w) s

end Sys2Proof.Machine
end

