-- ==== Sys2Proof/Machine/HostFragments.lean ====
section
/-! DEFINITION. The fragments a host builds, the grammar that UR.DEC reads (43_ur.md R160). The block does not build
fragments (00_scope.md R5 (c)); this is the host's half of R174 (c). -/

namespace Sys2Proof.Machine

/-- The ASCII digit of a number below 10. -/
def digitByte (n : Nat) : Byte := BitVec.ofNat 8 (48 + n)

/-- The decimal digits of `n`, in front of `acc`; `fuel` bounds their number. -/
def decimalFrom : Nat → Nat → List Byte → List Byte
  | 0, _, acc => acc
  | fuel + 1, n, acc =>
    if n < 10 then digitByte n :: acc else decimalFrom fuel (n / 10) (digitByte (n % 10) :: acc)

/-- A number in decimal without leading zeros (R160, 93_implementation_defined.md G5). -/
def decimalText (n : Nat) : List Byte := decimalFrom (n + 1) n []

/-- The letters `of`. -/
def ofLetters : List Byte := [0x6F, 0x66]

/-- The chunks of a text, at most `capacity` characters each, the last one possibly shorter (R160). `fuel` bounds their
number. -/
def chunksFrom (capacity : Nat) : Nat → List Byte → List (List Byte)
  | 0, _ => []
  | fuel + 1, t =>
    match t with
    | [] => []
    | _ => t.take capacity :: chunksFrom capacity fuel (t.drop capacity)

/-- The chunks of a text (R160). -/
def chunks (capacity : Nat) (t : List Byte) : List (List Byte) := chunksFrom capacity t.length t

/-- `ur:<type>/<chunk>` (R160). -/
def singleFragment (type chunk : List Byte) : List Byte := urScheme ++ type ++ [partSeparator] ++ chunk

/-- `ur:<type>/<index>of<total>/<digest>/<chunk>` (R160). -/
def multiFragment (type : List Byte) (index total : Nat) (digest chunk : List Byte) : List Byte :=
  urScheme ++ type ++ [partSeparator] ++ decimalText index ++ ofLetters ++ decimalText total ++ [partSeparator] ++
    digest ++ [partSeparator] ++ chunk

/-- The fragments of chunks whose first has 0-based position `i` of `n` (R160). -/
def multiFragments (type digest : List Byte) (n : Nat) : Nat → List (List Byte) → List (List Byte)
  | _, [] => []
  | i, c :: rest => multiFragment type (i + 1) n digest c :: multiFragments type digest n (i + 1) rest

/-- The fragments of a chunk list: one chunk makes a single fragment without digest (R160). -/
def fragmentsOf (type digest : List Byte) (cs : List (List Byte)) : List (List Byte) :=
  match cs with
  | [c] => [singleFragment type c]
  | cs => multiFragments type digest cs.length 0 cs

/-- The fragments a host builds from framed bytes with a type and a capacity (R160). -/
def hostFragments (sha : List Byte → List Byte) (type framed : List Byte) (capacity : Nat) : List (List Byte) :=
  fragmentsOf type (encodeData (sha framed)).1 (chunks capacity (encodeData framed).1)

end Sys2Proof.Machine
end

