-- ==== Sys2Proof/Machine/HostSyntax.lean ====
section
/-! DEFINITION. The host's assembly syntax and its pseudo-instructions, as the host accesses they stand for
(30_encoding.md R78, R79). -/

namespace Sys2Proof.Machine

/-- A line of a host program (R78, R79). -/
inductive HostLine where
  /-- `W <off>, <value>`. -/
  | w (off : Nat) (value : Word)
  /-- `R <off>`. -/
  | r (off : Nat)
  /-- A command mnemonic. -/
  | command (i : Instr)
  /-- `WAIT`, with the number of polls that still read BUSY = 1, which LATENCY decides (log 16). -/
  | wait (busyPolls : Nat)
  /-- `LOAD <off>, <bytes>`. -/
  | load (off : Nat) (bytes : List Byte)
  /-- `DESC <k>, <off>, <len>`. -/
  | desc (k off len : Nat)
  /-- `SETA <n>`. -/
  | setA (n : Nat)
  /-- `SETB <n>`. -/
  | setB (n : Nat)
  /-- `SETF <n>`. -/
  | setF (n : Nat)
  /-- `CLRDONE`. -/
  | clrDone
  /-- `GET <off>, <n>`. -/
  | get (off n : Nat)
  deriving DecidableEq, Repr

/-- The words that a LOAD writes from offset `a` of the window on: four bytes a word, missing bytes of the last word 0
(R79). R79 takes `a` to be a multiple of 4; log 20 says what any other does. -/
def loadWords (base : Nat) : Nat → List Byte → List Input
  | _, [] => []
  | a, b0 :: b1 :: b2 :: b3 :: rest =>
    .write (base + a) (wordOfBytes b0 b1 b2 b3) :: loadWords base (a + 4) rest
  | a, [b0, b1, b2] => [.write (base + a) (wordOfBytes b0 b1 b2 0)]
  | a, [b0, b1] => [.write (base + a) (wordOfBytes b0 b1 0 0)]
  | a, [b0] => [.write (base + a) (wordOfBytes b0 0 0 0)]

/-- `R 0x10000 + off + 4j` for `j = 0` to `ceil(n/4) - 1` (R79). -/
def getReads (base off n : Nat) : List Input :=
  (List.range ((n + 3) / 4)).map (fun j => .read (base + outBase + off + 4 * j))

/-- The polls of a WAIT: the reads that find BUSY = 1, the completion step, and the read that finds BUSY = 0 (R79; a
WAIT after completion has no busy polls and its completion step finds the engine idle). -/
def waitReads (base busyPolls : Nat) : List Input :=
  List.replicate busyPolls (.read (base + 0x028)) ++ [.engine, .read (base + 0x028)]

/-- The word of a DESC line, `len << 16 | off` (R79). DESIGN CHOICE for an operand of 2^16 or more, for which R79 gives
no bound and DESC[k] no room (R72): the formula is kept and the bits above 31 are lost (log 20). -/
def descOperand (off len : Nat) : Word := (BitVec.ofNat 32 len <<< 16) ||| BitVec.ofNat 32 off

/-- The accesses a line stands for, the window at bus address `base` (R78, R79). DESIGN CHOICE where a line's operands are
outside what R79 provides for (log 20): the expansion's formula is followed as it stands, an operand too large for its
32-bit word loses the bits above 31, and a LOAD whose offset is no multiple of 4 makes accesses whose offset bits [1:0]
the block ignores (20_memory.md R53). -/
def HostLine.expand (base : Nat) (l : HostLine) : List Input :=
  match l with
  | .w off v => [.write (base + off) v]
  | .r off => [.read (base + off)]
  | .command i => [.write (base + 0x024) (encode i)]
  | .wait n => waitReads base n
  | .load off bytes => loadWords base (inBase + off) bytes
  | .desc k off len => [.write (base + descBase + 4 * k) (descOperand off len)]
  | .setA n => [.write (base + 0x030) (BitVec.ofNat 32 n)]
  | .setB n => [.write (base + 0x034) (BitVec.ofNat 32 n)]
  | .setF n => [.write (base + 0x038) (BitVec.ofNat 32 n)]
  | .clrDone => [.write (base + 0x028) 0x2]
  | .get off n => getReads base off n

/-- The accesses of a host program, in program order. -/
def expandProgram (base : Nat) (ls : List HostLine) : List Input := (ls.map (HostLine.expand base)).flatten

/-- Whether a list of arrivals is one the platform may make of a host's accesses: in program order when `BUS_IN_ORDER`
holds, in any order when it does not (20_memory.md R59; log 5). -/
def Delivers (busInOrder : Bool) (program arrivals : List Input) : Prop :=
  if busInOrder then arrivals = program else arrivals.Perm program

end Sys2Proof.Machine
end

