-- ==== Sys2Proof/Safety.lean ====
section
/-! DEFINITION. What the statements are about: the invariant of the block, and what a command leaves after it succeeds,
after it fails, and in either case. -/

namespace Sys2Proof.Machine

open Sys2Proof.Config

/-- A byte of DESC, INBUF or OUTBUF that the block has (10_state.md R37 to R40). -/
def byteMapped (p : Params) (a : Nat) : Prop :=
  (descBase ≤ a ∧ a < descBase + 4 * p.maxFrags) ∨ (inBase ≤ a ∧ a < inBase + p.inBytes) ∨
    (outBase ≤ a ∧ a < outBase + p.outBytes)

/-- What issue leaves and completion finds (40_command_engine.md R91): a command in flight. -/
structure State.InFlight (s : State) : Prop where
  eng : s.eng = .busy
  done : s.done = false
  errcode : s.errcode = 0
  errInfo : s.errInfo = .zero
  outLen : s.outLen = 0
  res0 : s.res0 = 0
  res1 : s.res1 = 0
  res2 : s.res2 = 0

/-- The registers in the "hard reset" column of 10_state.md R45. -/
structure State.AtReset (s : State) : Prop where
  eng : s.eng = .idle
  ie : s.ie = false
  cmd : s.cmd = 0
  done : s.done = false
  haz : s.haz = false
  errcode : s.errcode = 0
  errInfo : s.errInfo = .zero
  alen : s.alen = 0
  blen : s.blen = 0
  fcount : s.fcount = 0
  outLen : s.outLen = 0
  acc : s.acc = 1
  res0 : s.res0 = 0
  res1 : s.res1 = 0
  res2 : s.res2 = 0

/-- The invariant of the block. -/
structure State.Inv (s : State) : Prop where
  /-- The parameters are legal (00_scope.md R6). -/
  legal : s.params.Legal
  /-- Memory keeps its canonical form. -/
  canonical : Memory.wf s.mem = true
  /-- Memory lists only bytes the block has (10_state.md R37). -/
  mapped : ∀ c ∈ s.mem, byteMapped s.params c.1
  /-- While BUSY the status and result registers are as issue left them (40_command_engine.md R91). -/
  inFlight : s.eng = .busy → s.InFlight
  /-- ERRCODE is a code that the block produces (60_exceptions.md R200). -/
  produced : s.errcode ∈ producedCodes
  /-- ERR_INFO is 0 when there is no error (10_state.md R30). -/
  noError : s.errcode = 0 → s.errInfo = .zero
  /-- No result register holds a value after an error (10_state.md R34, R36). -/
  noPartial : s.errcode ≠ 0 → s.outLen = 0 ∧ s.res0 = 0 ∧ s.res1 = 0 ∧ s.res2 = 0
  /-- OUT_LEN never exceeds OUTBUF (40_command_engine.md R96). -/
  outFits : s.outLen.toNat ≤ s.params.outBytes
  /-- The OUT_LEN bytes that are valid are determined (10_state.md R34). -/
  outValid : ∀ i, i < s.outLen.toNat → Memory.lookup s.mem (outBase + i) ≠ none
  /-- While `rst` is asserted every register stands at its reset value (70_reset_and_hazards.md R230). -/
  held : s.rst = true → s.AtReset

/-- What every command leaves alone, from `s` to `t`, whether it succeeds or fails: CTRL, CMD, HAZ, the operand registers,
every byte of INBUF and DESC (10_state.md R37; 40_command_engine.md R91 to R94; 60_exceptions.md R203), and the model's own
fields but the number of OUTBUF's unspecified contents. -/
structure CommandFrame (s t : State) : Prop where
  params : t.params = s.params
  rst : t.rst = s.rst
  ie : t.ie = s.ie
  cmd : t.cmd = s.cmd
  haz : t.haz = s.haz
  alen : t.alen = s.alen
  blen : t.blen = s.blen
  fcount : t.fcount = s.fcount
  ramDraw : t.ramDraw = s.ramDraw
  busDraw : t.busDraw = s.busDraw
  inputs : t.inputs = s.inputs
  answer : t.answer = s.answer
  /-- Every byte of INBUF and DESC reads as before. -/
  bytes : ∀ a, a < outBase → t.byteAt a = s.byteAt a

/-- `complete(OK)` (40_command_engine.md R92, R93): IDLE, DONE, no error, and the frame. -/
structure Succeeds (s t : State) : Prop where
  eng : t.eng = .idle
  done : t.done = true
  errcode : t.errcode = 0
  errInfo : t.errInfo = .zero
  frame : CommandFrame s t

/-- OUT_LEN is as it was, 0 when issue set it to 0 (40_command_engine.md R91). -/
def KeepsOutLen (s t : State) : Prop := t.outLen = s.outLen ∧ (s.InFlight → t.outLen = 0)

/-- RES0 is as it was, 0 when issue set it to 0. -/
def KeepsRes0 (s t : State) : Prop := t.res0 = s.res0 ∧ (s.InFlight → t.res0 = 0)

/-- RES1 is as it was, 0 when issue set it to 0. -/
def KeepsRes1 (s t : State) : Prop := t.res1 = s.res1 ∧ (s.InFlight → t.res1 = 0)

/-- RES2 is as it was, 0 when issue set it to 0. -/
def KeepsRes2 (s t : State) : Prop := t.res2 = s.res2 ∧ (s.InFlight → t.res2 = 0)

/-- A successful command that names no result: OUT_LEN and RES0 to RES2 as issue left them. -/
def KeepsResults (s t : State) : Prop := KeepsOutLen s t ∧ KeepsRes0 s t ∧ KeepsRes1 s t ∧ KeepsRes2 s t

/-- The output of a command: `OUTBUF[0..len(x)) = x` and `OUT_LEN = len(x)` (00_scope.md R12). -/
def Outputs (t : State) (x : List Byte) : Prop :=
  t.outLen = BitVec.ofNat 16 x.length ∧ ∀ i (h : i < x.length), t.outByteAt i = x[i]

/-- The error completion of 60_exceptions.md R203: the code and its context, DONE, IDLE; OUT_LEN and RES0 to RES2 left as
issue set them; ACC and everything the frame names unchanged. -/
structure Fails (s t : State) (code : ErrorCode) (detail frag field : Nat) : Prop where
  eng : t.eng = .idle
  done : t.done = true
  errcode : t.errcode = errorNumber code
  err : t.err = true
  errInfo : t.errInfo = ⟨BitVec.ofNat 16 detail, BitVec.ofNat 8 frag, BitVec.ofNat 4 field⟩
  acc : t.acc = s.acc
  results : KeepsResults s t
  frame : CommandFrame s t

/-- Any word with this opcode and zero reserved bits, whatever its VAR and SYM fields hold, decodes to the command
(30_encoding.md R75, R77). -/
def EncodedBy (op : BitVec 8) (i : Instr) : Prop :=
  ∀ w : Word, w.extractLsb' 0 8 = op → w.extractLsb' 9 7 = 0 → w.extractLsb' 21 11 = 0 → decode w = .ok i

/-- The same for a command that reads VAR (30_encoding.md R73, R77). -/
def EncodedByVar (op : BitVec 8) (bis : Bool) (i : Instr) : Prop :=
  ∀ w : Word, w.extractLsb' 0 8 = op → w.getLsbD 8 = bis → w.extractLsb' 9 7 = 0 → w.extractLsb' 21 11 = 0 →
    decode w = .ok i

/-- VAR of a variant (30_encoding.md R73). -/
def isBis (v : Variant) : Bool :=
  match v with
  | .origin => false
  | .bis => true

/-- CHK.CREATE of a variant. -/
def chkCreateOf (v : Variant) : Instr :=
  match v with
  | .origin => .chkCreateO
  | .bis => .chkCreateB

/-- CHK.VERIFY of a variant. -/
def chkVerifyOf (v : Variant) : Instr :=
  match v with
  | .origin => .chkVerifyO
  | .bis => .chkVerifyB

/-- B32.ENC of a variant. -/
def b32EncOf (v : Variant) : Instr :=
  match v with
  | .origin => .b32EncO
  | .bis => .b32EncB

/-- The commands that write ACC (10_state.md R35). -/
def writesAcc (i : Instr) : Bool :=
  match i with
  | .polyInit | .polyStep _ | .polyRun => true
  | .nop | .hrpExpand | .chkCreateO | .chkCreateB | .chkVerifyO | .chkVerifyB => false
  | .b32EncO | .b32EncB | .b32Dec | .b32Encd | .b32Decd | .urProbe | .urDec => false

/-- Every byte of a symbol operand is a symbol (30_encoding.md R74). -/
def AllSymbols (bs : List Byte) : Prop := ∀ b ∈ bs, b.toNat ≤ 31

/-- The first byte of a symbol operand that is no symbol has index `i` (41_polymod.md R118). -/
def FirstBadSymbol (bs : List Byte) (i : Nat) : Prop :=
  ∃ h : i < bs.length, 31 < bs[i].toNat ∧ ∀ j (hj : j < i), bs[j].toNat ≤ 31

/-- The symbols of a symbol operand. -/
def asSymbols (bs : List Byte) : List Symbol := bs.map (fun b => b.setWidth 5)

/-- `i` is the first index of `t` whose byte meets `p`. -/
def FirstIndex (p : Byte → Prop) (t : List Byte) (i : Nat) : Prop :=
  ∃ h : i < t.length, p t[i] ∧ ∀ j (hj : j < i), ¬ p t[j]

/-- `pos` is the last index of the separator `1` in `t` (00_scope.md R11). -/
def LastSeparator (t : List Byte) (pos : Nat) : Prop :=
  ∃ h : pos < t.length, t[pos] = 0x31 ∧ ∀ j (hj : j < t.length), pos < j → t[j] ≠ 0x31

/-- Every byte of a text is in the range 33 to 126 (42_base32.md R134). -/
def AllInRange (t : List Byte) : Prop := ∀ b ∈ t, 33 ≤ b.toNat ∧ b.toNat ≤ 126

/-- A text that mixes cases (R132, R134). -/
def MixedCase (t : List Byte) : Prop :=
  (∃ b ∈ t, 97 ≤ b.toNat ∧ b.toNat ≤ 122) ∧ ∃ b ∈ t, 65 ≤ b.toNat ∧ b.toNat ≤ 90

/-- The text passes the character checks that come before any other (R134). -/
def PlainText (t : List Byte) : Prop := AllInRange t ∧ ¬ MixedCase t

/-- A byte that, lowercased, is not in the alphabet (R131, R134). -/
def NotInAlphabet (b : Byte) : Prop := ∀ x : Symbol, sym x ≠ lower b

/-- `e` is the symbol sequence of the text `t` (R130, R134). -/
def SymbolsOf (t : List Byte) (e : List Symbol) : Prop := e.map sym = t.map lower

/-- A sequence of decimal digits (43_ur.md R164). -/
def Digits (ds : List Byte) : Prop := ds ≠ [] ∧ ∀ b ∈ ds, 48 ≤ b.toNat ∧ b.toNat ≤ 57

/-- The grammar of a sequencing token: `A ++ [o] ++ [f] ++ B` (R164). -/
def SeqToken (tok a b : List Byte) : Prop :=
  ∃ o f : Byte, (o = 0x6F ∨ o = 0x4F) ∧ (f = 0x66 ∨ f = 0x46) ∧ Digits a ∧ Digits b ∧ tok = a ++ [o, f] ++ b

/-- Two states that differ in nothing a command's result may depend on (40_command_engine.md R100): they may differ in HAZ
and in the model's own bookkeeping of the bus. -/
structure SameCommand (s t : State) : Prop where
  params : t.params = s.params
  rst : t.rst = s.rst
  eng : t.eng = s.eng
  ie : t.ie = s.ie
  cmd : t.cmd = s.cmd
  done : t.done = s.done
  errcode : t.errcode = s.errcode
  errInfo : t.errInfo = s.errInfo
  alen : t.alen = s.alen
  blen : t.blen = s.blen
  fcount : t.fcount = s.fcount
  outLen : t.outLen = s.outLen
  acc : t.acc = s.acc
  res0 : t.res0 = s.res0
  res1 : t.res1 = s.res1
  res2 : t.res2 = s.res2
  mem : t.mem = s.mem
  ramDraw : t.ramDraw = s.ramDraw
  outDraw : t.outDraw = s.outDraw

/-- A host access of the block's window that is not a soft reset (70_reset_and_hazards.md R236). -/
def PlainAccess (p : Params) (e : Input) : Prop :=
  match e with
  | .read addr => ∃ l, locateBus p addr = some l
  | .write addr v => ∃ l, locateBus p addr = some l ∧ isSoftReset l v = false
  | .engine | .assertRst | .releaseRst => False

end Sys2Proof.Machine
end

