-- ==== Sys2Proof/Certificates/Slice0/Obligations.lean ====
section
/-! DEFINITION. The statements for the provers, in five groups: decoding, the step, resets and host accesses, the commands,
the pure functions. Each docstring names the rule of spec/ it formalises. -/

open Sys2Proof Sys2Proof.Machine Sys2Proof.Config

/-! ### Decoding -/

/-- R79 "`Encode` the inverse of rule R77": every well-formed command decodes from its own word. -/
def Obligations.DecodeEncodeAgree : Prop :=
  ∀ i : Instr, i.WellFormed → decode (encode i) = .ok i

/-- R77, the decoder as a total function of the fields of the word. -/
def Obligations.DecodeFollowsTheTable : Prop :=
  ∀ w : Word,
    ((w.extractLsb' 9 7 ≠ 0 ∨ w.extractLsb' 21 11 ≠ 0) → ∃ e, decode w = .error e) ∧
    (w.extractLsb' 9 7 = 0 → w.extractLsb' 21 11 = 0 →
      (w.extractLsb' 0 8 = 0x00#8 → decode w = .ok .nop) ∧
      (w.extractLsb' 0 8 = 0x01#8 → decode w = .ok .polyInit) ∧
      (w.extractLsb' 0 8 = 0x02#8 → decode w = .ok (.polyStep (w.extractLsb' 16 5).toNat)) ∧
      (w.extractLsb' 0 8 = 0x03#8 → decode w = .ok .polyRun) ∧
      (w.extractLsb' 0 8 = 0x04#8 → decode w = .ok .hrpExpand) ∧
      (w.extractLsb' 0 8 = 0x05#8 → decode w = .ok (if w.getLsbD 8 then .chkCreateB else .chkCreateO)) ∧
      (w.extractLsb' 0 8 = 0x06#8 → decode w = .ok (if w.getLsbD 8 then .chkVerifyB else .chkVerifyO)) ∧
      (w.extractLsb' 0 8 = 0x07#8 → decode w = .ok (if w.getLsbD 8 then .b32EncB else .b32EncO)) ∧
      (w.extractLsb' 0 8 = 0x08#8 → decode w = .ok .b32Dec) ∧
      (w.extractLsb' 0 8 = 0x09#8 → decode w = .ok .b32Encd) ∧
      (w.extractLsb' 0 8 = 0x0A#8 → decode w = .ok .b32Decd) ∧
      (w.extractLsb' 0 8 = 0x0B#8 → decode w = .ok .urProbe) ∧
      (w.extractLsb' 0 8 = 0x0C#8 → decode w = .ok .urDec) ∧
      (0x0D ≤ (w.extractLsb' 0 8).toNat → ∃ e, decode w = .error e))

/-- A few words of R79 and of 95_test_vectors.md section 6.1 decode to the commands they stand for. -/
def Obligations.SpecWordsDecode : Prop :=
  decode 0x00000000#32 = .ok .nop ∧ decode 0x001F0100#32 = .ok .nop ∧
  decode 0x00030102#32 = .ok (.polyStep 3) ∧ decode 0x00000106#32 = .ok .chkVerifyB ∧
  decode 0x00000007#32 = .ok .b32EncO ∧ decode 0x0000000C#32 = .ok .urDec ∧
  decode 0x0000000D#32 = .error .unknownOpcode ∧ decode 0x00000208#32 = .error .reservedBits

/-! ### The step -/

/-- R92, R101: when the completion step is next and CMD decodes to a command, the step is that command's meaning, with the
event taken off the list and no bus answer. -/
def Obligations.StepRunsTheDecodedCommand : Prop :=
  ∀ (s : State) (i : Instr), s.rst = false → s.eng = .busy → s.nextInput = .engine → i.WellFormed →
    decode s.cmd = .ok i → step s = exec i { s with inputs := s.inputs.tail, answer := none }

/-- R98: an illegal word completes with ILLEGAL_COMMAND and no other effect. -/
def Obligations.IllegalWordCompletesWithError : Prop :=
  ∀ s : State, s.rst = false → s.eng = .busy → s.nextInput = .engine →
    (s.cmd.extractLsb' 9 7 ≠ 0 ∨ s.cmd.extractLsb' 21 11 ≠ 0 ∨ 0x0D ≤ (s.cmd.extractLsb' 0 8).toNat) →
    ∃ t, step s = .next t ∧
      Fails s.popInput t .illegalCommand (s.cmd.extractLsb' 0 8).toNat 0xFF 0 ∧
      t.errcode = 0x01 ∧ t.err = true ∧ t.done = true ∧
      errInfoWord t.errInfo = (0x00FF0000 ||| (s.cmd &&& 0xFF)) ∧ t.cmd = s.cmd

/-- R91: a CMD write while IDLE issues the word; while BUSY it is no issue, a hazard write. Bits [1:0] of the offset are
ignored (R53). -/
def Obligations.CmdWriteIssues : Prop :=
  ∀ (s : State) (r : Nat) (w : Word) (rest : List Input), s.rst = false → r < 4 →
    s.inputs = .write (s.params.blockBase + 0x024 + r) w :: rest →
    (s.eng = .idle → ∃ t, step s = .next t ∧ t.cmd = w ∧ t.InFlight ∧ t.busy = true ∧ t.err = false ∧
      t.irq = false ∧ t.haz = s.haz ∧ t.ie = s.ie ∧ t.alen = s.alen ∧ t.blen = s.blen ∧ t.fcount = s.fcount ∧
      t.acc = s.acc ∧ t.params = s.params ∧ t.rst = false ∧ t.inputs = rest ∧ ∀ a, t.byteAt a = s.byteAt a) ∧
    (s.eng = .busy → step s = .next { s with haz := true, inputs := rest, answer := none })

/-- R92: "a command always completes": the completion step of any word leaves IDLE and DONE. -/
def Obligations.CommandAlwaysCompletes : Prop :=
  ∀ s : State, s.rst = false → s.eng = .busy → s.nextInput = .engine →
    ∃ t, step s = .next t ∧ t.eng = .idle ∧ t.busy = false ∧ t.done = true ∧ t.inputs = s.inputs.tail ∧ t.cmd = s.cmd

/-- R94, R203: whatever the command, an error completion writes a code and its context, leaves OUT_LEN, RES0 to RES2 and ACC
alone, and leaves every byte of OUTBUF unspecified. -/
def Obligations.ErrorsLeaveNoPartialResult : Prop :=
  ∀ (i : Instr) (s t : State), exec i s = .next t → t.errcode ≠ 0 →
    (∃ e : CmdError, Fails s t e.code e.detail e.frag e.field) ∧ t.outDraw = s.outDraw + 1 ∧
      ∀ a, outBase ≤ a → t.byteAt a = outByte t.outDraw a

/-- R37, R93, R203: no command, whether it succeeds or fails, writes CTRL, CMD, HAZ, the operand registers, INBUF or DESC. -/
def Obligations.CommandsKeepInputs : Prop :=
  ∀ (i : Instr) (s t : State), exec i s = .next t → CommandFrame s t

/-- R35: "Written by the host ... and by POLY_INIT, POLY_STEP and POLY_RUN only". -/
def Obligations.OnlyPolyCommandsWriteAcc : Prop :=
  ∀ (i : Instr) (s t : State), writesAcc i = false → exec i s = .next t → t.acc = s.acc

/-- R39: OUTBUF bytes at indices from OUT_LEN on are unspecified after every command but NOP, which keeps them (R97).
The statement holds for every value of the free bytes. That POLY, CHK.VERIFY and UR.PROBE leave ALL of OUTBUF unspecified
is read from R39 (log 7); that NOP does not, from R97 (log 17). -/
def Obligations.OutputBeyondOutLenIsUnspecified : Prop :=
  ∀ (i : Instr) (s t : State), s.params.Legal → i ≠ .nop → exec i s = .next t →
    t.outDraw = s.outDraw + 1 ∧ ∀ j, t.outLen.toNat ≤ j → t.outByteAt j = outByte t.outDraw (outBase + j)

/-- The invariant holds after reset (R45, R230). -/
def Obligations.ResetStateIsGood : Prop := State.reset.Inv

/-- Every step keeps the invariant: canonical memory of the bytes the block has, only produced error codes, no partial
results, OUT_LEN within OUTBUF, the in-flight and held-in-reset register values. -/
def Obligations.StepKeepsGoodState : Prop :=
  ∀ s t : State, s.Inv → step s = .next t → t.Inv

/-- R22 to R25: the constants that ID, CAPS, INSIZE, OUTSIZE and SCRSIZE report never change. -/
def Obligations.StepKeepsParameters : Prop :=
  ∀ s t : State, step s = .next t → t.params = s.params

/-- R100, R234: the accesses a host makes while a command runs, soft resets apart, change nothing of what the command
leaves: the completion after them and the completion without them agree. -/
def Obligations.ResultIndependentOfLatency : Prop :=
  ∀ (s : State) (es rest : List Input), s.rst = false → s.eng = .busy → s.inputs = es ++ .engine :: rest →
    (∀ e ∈ es, PlainAccess s.params e) →
    ∃ u t t0, Sys2Proof.core.run es.length s = .next u ∧ step u = .next t ∧
      step { s with inputs := .engine :: rest } = .next t0 ∧ SameCommand t0 t

/-! ### Resets and host accesses -/

/-- R230: power-on and `rst` give the reset column; while `rst` is asserted accesses have no effect and reads return
unspecified values, and the engine does nothing. That the column is taken when `rst` rises is log 9's. -/
def Obligations.HardResetGivesResetColumn : Prop :=
  State.reset.AtReset ∧
  (∀ (s : State) (rest : List Input), s.inputs = .assertRst :: rest →
    ∃ t, step s = .next t ∧ t.AtReset ∧ t.rst = true ∧ t.irq = false ∧ t.params = s.params ∧ t.inputs = rest ∧
      (∀ a, a < outBase → t.byteAt a = ramByte (s.ramDraw + 1) a) ∧
      (∀ a, outBase ≤ a → t.byteAt a = outByte (s.outDraw + 1) a)) ∧
  (∀ (s : State) (rest : List Input), s.inputs = .releaseRst :: rest →
    step s = .next { s with rst := false, inputs := rest, answer := none }) ∧
  (∀ (s : State) (addr : Nat) (rest : List Input), s.rst = true → s.inputs = .read addr :: rest →
    s.params.blockBase ≤ addr → addr < s.params.blockBase + 0x18000 →
    step s = .next { s with inputs := rest, busDraw := s.busDraw + 1, answer := some (busWord s.busDraw) }) ∧
  (∀ (s : State) (addr : Nat) (v : Word) (rest : List Input), s.rst = true → s.inputs = .write addr v :: rest →
    s.params.blockBase ≤ addr → addr < s.params.blockBase + 0x18000 →
    step s = .next { s with inputs := rest, answer := none }) ∧
  (∀ s : State, s.rst = true → s.nextInput = .engine →
    step s = .next { s with inputs := s.inputs.tail, answer := none })

/-- R231: a write of CTRL with SRST = 1, in any engine state. -/
def Obligations.SoftResetAbandonsCommand : Prop :=
  ∀ (s : State) (r : Nat) (v : Word) (rest : List Input), s.rst = false → r < 4 → v.getLsbD 1 = true →
    s.inputs = .write (s.params.blockBase + 0x020 + r) v :: rest →
    ∃ t, step s = .next t ∧ t.AtReset ∧ t.irq = false ∧ t.statusWord = 0 ∧ t.params = s.params ∧ t.rst = false ∧
      t.inputs = rest ∧ (∀ a, a < outBase → t.byteAt a = s.byteAt a) ∧ t.outDraw = s.outDraw + 1 ∧
      ∀ a, outBase ≤ a → t.byteAt a = outByte t.outDraw a

/-- R20, R22 to R36: what a host read of each register answers while IDLE; a read has no other effect (R56). -/
def Obligations.IdleReadAnswersRegister : Prop :=
  ∀ (s : State) (off : Nat) (w : Word) (rest : List Input), s.rst = false → s.eng = .idle →
    s.inputs = .read (s.params.blockBase + off) :: rest →
    (off, w) ∈ [(0x000, 0xBC320100#32), (0x004, (BitVec.ofNat 8 s.params.maxFrags).setWidth 32),
      (0x008, BitVec.ofNat 32 s.params.inBytes), (0x00C, BitVec.ofNat 32 s.params.outBytes),
      (0x010, BitVec.ofNat 32 s.params.scratchBytes), (0x020, if s.ie then 1#32 else 0#32), (0x024, s.cmd),
      (0x028, 0#16 ++ s.errcode ++ 0#4 ++ BitVec.ofBool s.haz ++ BitVec.ofBool (s.errcode != 0) ++
        BitVec.ofBool s.done ++ 0#1),
      (0x02C, 0#4 ++ s.errInfo.field ++ s.errInfo.frag ++ s.errInfo.detail),
      (0x030, 0#16 ++ s.alen), (0x034, 0#16 ++ s.blen), (0x038, 0#24 ++ s.fcount), (0x03C, 0#16 ++ s.outLen),
      (0x040, 0#2 ++ s.acc), (0x044, s.res0), (0x048, s.res1), (0x04C, s.res2)] →
    step s = .next { s with inputs := rest, answer := some w }

/-- R235: reads while BUSY answer the current values of inputs and constants, STATUS with BUSY = 1 and nothing else but HAZ,
reserved offsets 0, and unspecified values for the results. That the reserved bits of an unspecified register still read 0
is log 8's, from R55. -/
def Obligations.BusyReadAnswers : Prop :=
  ∀ (s : State) (off : Nat) (rest : List Input), s.rst = false → s.eng = .busy → s.Inv →
    s.inputs = .read (s.params.blockBase + off) :: rest →
    (∀ w : Word, (off, w) ∈ [(0x000, 0xBC320100#32), (0x004, (BitVec.ofNat 8 s.params.maxFrags).setWidth 32),
        (0x008, BitVec.ofNat 32 s.params.inBytes), (0x00C, BitVec.ofNat 32 s.params.outBytes),
        (0x010, BitVec.ofNat 32 s.params.scratchBytes), (0x020, if s.ie then 1#32 else 0#32), (0x024, s.cmd),
        (0x028, if s.haz then 9#32 else 1#32), (0x030, 0#16 ++ s.alen), (0x034, 0#16 ++ s.blen),
        (0x038, 0#24 ++ s.fcount), (0x014, 0#32), (0x01C, 0#32), (0x050, 0#32), (0x3FC, 0#32), (0x800, 0#32),
        (0x7FFC, 0#32)] →
      step s = .next { s with inputs := rest, answer := some w }) ∧
    (∀ k, k < s.params.maxFrags → off = 0x400 + 4 * k →
      step s = .next { s with inputs := rest, answer := some (s.descWord k) }) ∧
    (∀ j, 4 * j < s.params.inBytes → off = 0x8000 + 4 * j →
      step s = .next { s with inputs := rest, answer := some (s.wordAt off) }) ∧
    (∀ mask : Word, (off, mask) ∈ [(0x02C, 0x0FFFFFFF#32), (0x03C, 0x0000FFFF#32), (0x040, 0x3FFFFFFF#32),
        (0x044, 0xFFFFFFFF#32), (0x048, 0xFFFFFFFF#32), (0x04C, 0xFFFFFFFF#32)] →
      step s = .next
        { s with inputs := rest, busDraw := s.busDraw + 1, answer := some (busWord s.busDraw &&& mask) }) ∧
    (∀ j, 4 * j < s.params.outBytes → off = 0x10000 + 4 * j →
      step s = .next { s with inputs := rest, busDraw := s.busDraw + 1, answer := some (busWord s.busDraw) })

/-- R236: hazard writes are ignored and set HAZ; writes to read-only registers, reserved offsets and the OUTBUF window are
ignored and set nothing. -/
def Obligations.HazardWritesAreIgnored : Prop :=
  ∀ (s : State) (off : Nat) (v : Word) (rest : List Input), s.rst = false → s.eng = .busy →
    s.inputs = .write (s.params.blockBase + off) v :: rest →
    (s.params.Legal →
      (off ∈ [0x024, 0x028, 0x030, 0x034, 0x038, 0x040] ∨ (off = 0x020 ∧ v.getLsbD 1 = false) ∨
        (∃ k, k < s.params.maxFrags ∧ off = 0x400 + 4 * k) ∨ (∃ j, 4 * j < s.params.inBytes ∧ off = 0x8000 + 4 * j)) →
      step s = .next { s with haz := true, inputs := rest, answer := none }) ∧
    ((off ∈ [0x000, 0x004, 0x008, 0x00C, 0x010, 0x02C, 0x03C, 0x044, 0x048, 0x04C] ∨ (0x014 ≤ off ∧ off ≤ 0x01C) ∨
        (0x050 ≤ off ∧ off < 0x400) ∨ (∃ k, s.params.maxFrags ≤ k ∧ k < 256 ∧ off = 0x400 + 4 * k) ∨
        (0x800 ≤ off ∧ off < 0x8000) ∨ (∃ j, s.params.inBytes ≤ 4 * j ∧ 4 * j < 0x8000 ∧ off = 0x8000 + 4 * j) ∨
        (0x10000 ≤ off ∧ off < 0x18000)) →
      step s = .next { s with inputs := rest, answer := none })

/-- R28, R236: HAZ is sticky: a step clears it only by a STATUS write of bit 3 while IDLE, a soft reset, or `rst`. -/
def Obligations.HazIsSticky : Prop :=
  ∀ s t : State, step s = .next t → s.haz = true → t.haz = false →
    s.nextInput = .assertRst ∨
    (∃ addr v, s.nextInput = .write addr v ∧ s.rst = false ∧
      ((locateBus s.params addr = some (.reg .status) ∧ s.eng = .idle ∧ v.getLsbD 3 = true) ∨
        (locateBus s.params addr = some (.reg .ctrl) ∧ v.getLsbD 1 = true)))

/-- R55: reserved offsets, DESC words and buffer bytes that the block does not have read 0 in both engine states, and
writes to them, to the OUTBUF window and to read-only registers are ignored while IDLE (while BUSY:
HazardWritesAreIgnored). -/
def Obligations.ReservedReadZeroIgnoreWrites : Prop :=
  ∀ (s : State) (off : Nat) (rest : List Input), s.rst = false →
    (((0x014 ≤ off ∧ off ≤ 0x01C) ∨ (0x050 ≤ off ∧ off < 0x400) ∨
        (∃ k, s.params.maxFrags ≤ k ∧ k < 256 ∧ off = 0x400 + 4 * k) ∨ (0x800 ≤ off ∧ off < 0x8000) ∨
        (∃ j, s.params.inBytes ≤ 4 * j ∧ 4 * j < 0x8000 ∧ off = 0x8000 + 4 * j) ∨
        (∃ j, s.params.outBytes ≤ 4 * j ∧ 4 * j < 0x8000 ∧ off = 0x10000 + 4 * j)) →
      s.inputs = .read (s.params.blockBase + off) :: rest →
      step s = .next { s with inputs := rest, answer := some 0 }) ∧
    (∀ v : Word, s.eng = .idle → s.inputs = .write (s.params.blockBase + off) v :: rest →
      (off ∈ [0x000, 0x004, 0x008, 0x00C, 0x010, 0x02C, 0x03C, 0x044, 0x048, 0x04C] ∨
        (0x014 ≤ off ∧ off ≤ 0x01C) ∨ (0x050 ≤ off ∧ off < 0x400) ∨
        (∃ k, s.params.maxFrags ≤ k ∧ k < 256 ∧ off = 0x400 + 4 * k) ∨ (0x800 ≤ off ∧ off < 0x8000) ∨
        (∃ j, s.params.inBytes ≤ 4 * j ∧ 4 * j < 0x8000 ∧ off = 0x8000 + 4 * j) ∨
        (0x10000 ≤ off ∧ off < 0x18000)) →
      step s = .next { s with inputs := rest, answer := none })

/-- R26, R31, R32, R33, R35: a write of CTRL (SRST = 0), ALEN, BLEN, FCOUNT or ACC while IDLE stores the implemented bits
and nothing else. -/
def Obligations.IdleWriteStoresRegister : Prop :=
  ∀ (s : State) (off : Nat) (v : Word) (rest : List Input), s.rst = false → s.eng = .idle →
    s.inputs = .write (s.params.blockBase + off) v :: rest →
    (off = 0x020 → v.getLsbD 1 = false →
      step s = .next { s with ie := v.getLsbD 0, inputs := rest, answer := none }) ∧
    (off = 0x030 → step s = .next { s with alen := v.extractLsb' 0 16, inputs := rest, answer := none }) ∧
    (off = 0x034 → step s = .next { s with blen := v.extractLsb' 0 16, inputs := rest, answer := none }) ∧
    (off = 0x038 → step s = .next { s with fcount := v.extractLsb' 0 8, inputs := rest, answer := none }) ∧
    (off = 0x040 → step s = .next { s with acc := v.extractLsb' 0 30, inputs := rest, answer := none })

/-- R29: a STATUS write clears DONE and HAZ where it writes 1, while IDLE; while BUSY it is a hazard write. -/
def Obligations.StatusWriteClears : Prop :=
  ∀ (s : State) (v : Word) (rest : List Input), s.rst = false →
    s.inputs = .write (s.params.blockBase + 0x028) v :: rest →
    (s.eng = .idle → ∃ t, step s = .next t ∧
      t = { s with done := t.done, haz := t.haz, inputs := rest, answer := none } ∧
      (v.getLsbD 1 = true → t.done = false) ∧ (v.getLsbD 1 = false → t.done = s.done) ∧
      (v.getLsbD 3 = true → t.haz = false) ∧ (v.getLsbD 3 = false → t.haz = s.haz)) ∧
    (s.eng = .busy → step s = .next { s with haz := true, inputs := rest, answer := none })

/-- R51: the little-endian packing of INBUF and OUTBUF words, read and written; a write changes the four bytes of its word
and nothing else, and a read after it answers the word written (R59). -/
def Obligations.BufferWordsAreLittleEndian : Prop :=
  (∀ (s : State) (j : Nat) (rest : List Input), s.rst = false → s.eng = .idle → s.params.Legal →
    (4 * j < s.params.inBytes → s.inputs = .read (s.params.blockBase + 0x8000 + 4 * j) :: rest →
      ∃ t, step s = .next t ∧ t.answer = some ((s.inByte (4 * j)).setWidth 32 |||
        (s.inByte (4 * j + 1)).setWidth 32 <<< 8 ||| (s.inByte (4 * j + 2)).setWidth 32 <<< 16 |||
        (s.inByte (4 * j + 3)).setWidth 32 <<< 24)) ∧
    (4 * j < s.params.outBytes → s.inputs = .read (s.params.blockBase + 0x10000 + 4 * j) :: rest →
      ∃ t, step s = .next t ∧ t.answer = some ((s.outByteAt (4 * j)).setWidth 32 |||
        (s.outByteAt (4 * j + 1)).setWidth 32 <<< 8 ||| (s.outByteAt (4 * j + 2)).setWidth 32 <<< 16 |||
        (s.outByteAt (4 * j + 3)).setWidth 32 <<< 24))) ∧
  (∀ (s : State) (j : Nat) (v : Word) (rest : List Input), s.rst = false → s.eng = .idle → s.params.Legal →
    4 * j < s.params.inBytes → s.inputs = .write (s.params.blockBase + 0x8000 + 4 * j) v :: rest →
    ∃ t, step s = .next t ∧ t = { s with mem := t.mem, inputs := rest, answer := none } ∧
      t.inByte (4 * j) = v.extractLsb' 0 8 ∧ t.inByte (4 * j + 1) = v.extractLsb' 8 8 ∧
      t.inByte (4 * j + 2) = v.extractLsb' 16 8 ∧ t.inByte (4 * j + 3) = v.extractLsb' 24 8 ∧
      (∀ a, (a < 0x8000 + 4 * j ∨ 0x8000 + 4 * j + 4 ≤ a) → t.byteAt a = s.byteAt a) ∧
      (∀ rest', rest = .read (s.params.blockBase + 0x8000 + 4 * j) :: rest' →
        ∃ u, step t = .next u ∧ u.answer = some v))

/-- R40, R72: a DESC write gives the descriptor's two fields, changes no other byte, and reads back (R59). -/
def Obligations.DescriptorWriteReadsBack : Prop :=
  ∀ (s : State) (k : Nat) (v : Word) (rest : List Input), s.rst = false → s.eng = .idle → s.params.Legal →
    k < s.params.maxFrags → s.inputs = .write (s.params.blockBase + 0x400 + 4 * k) v :: rest →
    ∃ t, step s = .next t ∧ t = { s with mem := t.mem, inputs := rest, answer := none } ∧
      t.descWord k = v ∧ t.descOff k = (v.extractLsb' 0 16).toNat ∧ t.descLen k = (v.extractLsb' 16 16).toNat ∧
      (∀ a, (a < 0x400 + 4 * k ∨ 0x400 + 4 * k + 4 ≤ a) → t.byteAt a = s.byteAt a) ∧
      (∀ rest', rest = .read (s.params.blockBase + 0x400 + 4 * k) :: rest' →
        ∃ u, step t = .next u ∧ u.answer = some v)

/-- R53: bits [1:0] of every offset are ignored, and no access of the window traps. -/
def Obligations.LowOffsetBitsAreIgnored : Prop :=
  ∀ (s : State) (off r : Nat) (v : Word) (rest : List Input), r < 4 → off % 4 = 0 →
    step { s with inputs := .read (s.params.blockBase + off + r) :: rest } =
      step { s with inputs := .read (s.params.blockBase + off) :: rest } ∧
    step { s with inputs := .write (s.params.blockBase + off + r) v :: rest } =
      step { s with inputs := .write (s.params.blockBase + off) v :: rest } ∧
    (off < 0x18000 → (∃ t, step { s with inputs := .read (s.params.blockBase + off + r) :: rest } = .next t) ∧
      ∃ t, step { s with inputs := .write (s.params.blockBase + off + r) v :: rest } = .next t)

/-- R20: addresses outside the window are not the block's. That the model stops with a fault there is its own choice
(log 12). -/
def Obligations.OutsideWindowStops : Prop :=
  ∀ (s : State) (addr : Nat) (v : Word) (rest : List Input),
    (addr < s.params.blockBase ∨ s.params.blockBase + 0x18000 ≤ addr) →
    step { s with inputs := .read addr :: rest } = .fault .outsideWindow ∧
      step { s with inputs := .write addr v :: rest } = .fault .outsideWindow

/-- R207: `irq = CTRL.IE AND STATUS.DONE`: it rises at the completion of every word when IE = 1, and it falls by CLRDONE, by
an issue, by IE = 0 and by a reset. That it is low as soon as `rst` rises (the last clause) is the model's choice: log 9,
DESIGN CHOICE, applies the reset column of R45 at the rise. -/
def Obligations.InterruptFollowsDone : Prop :=
  (∀ s : State, s.irq = true ↔ s.ie = true ∧ s.done = true) ∧
  (∀ (s : State) (line : Nat), s.drivesLine line = true ↔ line = s.params.irqLine ∧ s.irq = true) ∧
  (∀ s : State, s.rst = false → s.eng = .busy → s.nextInput = .engine → s.ie = true →
    ∃ t, step s = .next t ∧ t.irq = true) ∧
  (∀ (s : State) (off : Nat) (v : Word) (rest : List Input), s.rst = false → s.eng = .idle →
    s.inputs = .write (s.params.blockBase + off) v :: rest →
    ((off = 0x028 ∧ v.getLsbD 1 = true) ∨ off = 0x024 ∨
      (off = 0x020 ∧ (v.getLsbD 0 = false ∨ v.getLsbD 1 = true))) →
    ∃ t, step s = .next t ∧ t.irq = false) ∧
  (∀ (s : State) (rest : List Input), s.inputs = .assertRst :: rest → ∃ t, step s = .next t ∧ t.irq = false)

/-! ### The commands -/

/-- R97. -/
def Obligations.NopCompletes : Prop :=
  EncodedBy 0x00 .nop ∧
  ∀ s : State, ∃ t, exec .nop s = .next t ∧ Succeeds s t ∧ KeepsResults s t ∧ t.acc = s.acc ∧
    ∀ a, t.byteAt a = s.byteAt a

/-- R116. -/
def Obligations.PolyInitSetsAccToOne : Prop :=
  EncodedBy 0x01 .polyInit ∧
  ∀ s : State, ∃ t, exec .polyInit s = .next t ∧ Succeeds s t ∧ KeepsResults s t ∧ t.acc = 1

/-- R117, with the step of R110 (`PolymodStepFormula`). -/
def Obligations.PolyStepAdvancesAcc : Prop :=
  (∀ w : Word, w.extractLsb' 0 8 = 0x02#8 → w.extractLsb' 9 7 = 0 → w.extractLsb' 21 11 = 0 →
    decode w = .ok (.polyStep (w.extractLsb' 16 5).toNat)) ∧
  ∀ (s : State) (x : Symbol), ∃ t, exec (.polyStep x.toNat) s = .next t ∧ Succeeds s t ∧ KeepsResults s t ∧
    t.acc = polyStep s.acc x

/-- R118: the fold over the operand, or ARG_RANGE, or INVALID_SYMBOL at the first byte above 31; an error leaves ACC
unchanged. -/
def Obligations.PolyRunFoldsOperand : Prop :=
  EncodedBy 0x03 .polyRun ∧
  ∀ s : State,
    (s.params.inBytes < s.blen.toNat →
      ∃ t, exec .polyRun s = .next t ∧ Fails s t .argRange 2 0xFF 0) ∧
    (∀ i, s.blen.toNat ≤ s.params.inBytes → FirstBadSymbol s.textBytes i →
      ∃ t, exec .polyRun s = .next t ∧ Fails s t .invalidSymbol i 0xFF 0) ∧
    (s.blen.toNat ≤ s.params.inBytes → AllSymbols s.textBytes →
      ∃ t, exec .polyRun s = .next t ∧ Succeeds s t ∧ KeepsResults s t ∧
        t.acc = (asSymbols s.textBytes).foldl polyStep s.acc)

/-- R119, R112: the expansion byte by byte, or ARG_RANGE, or OUT_OVERFLOW when `2·ALEN + 1 > OUT_BYTES`. -/
def Obligations.HrpExpandWritesExpansion : Prop :=
  EncodedBy 0x04 .hrpExpand ∧
  ∀ s : State,
    (s.params.inBytes < s.alen.toNat →
      ∃ t, exec .hrpExpand s = .next t ∧ Fails s t .argRange 1 0xFF 0) ∧
    (s.alen.toNat ≤ s.params.inBytes → s.params.outBytes < 2 * s.alen.toNat + 1 →
      ∃ t, exec .hrpExpand s = .next t ∧ Fails s t .outOverflow 1 0xFF 0) ∧
    (s.alen.toNat ≤ s.params.inBytes → 2 * s.alen.toNat + 1 ≤ s.params.outBytes →
      ∃ t, exec .hrpExpand s = .next t ∧ Succeeds s t ∧ t.acc = s.acc ∧ KeepsRes0 s t ∧ KeepsRes1 s t ∧
        KeepsRes2 s t ∧ t.outLen = BitVec.ofNat 16 (2 * s.alen.toNat + 1) ∧
        (∀ i, i < s.alen.toNat → t.outByteAt i = s.inByte i >>> 5) ∧ t.outByteAt s.alen.toNat = 0 ∧
        ∀ i, i < s.alen.toNat → t.outByteAt (s.alen.toNat + 1 + i) = s.inByte i &&& 31)

/-- R120, R114, for both variants: the six 5-bit groups, most significant first, the checksum and the raw polymod; or
ARG_RANGE, or INVALID_SYMBOL. -/
def Obligations.ChkCreateMakesChecksum : Prop :=
  ∀ v : Variant, EncodedByVar 0x05 (isBis v) (chkCreateOf v) ∧
  ∀ s : State,
    (s.params.inBytes < s.alen.toNat + s.blen.toNat →
      ∃ t, exec (chkCreateOf v) s = .next t ∧ Fails s t .argRange 3 0xFF 0) ∧
    (∀ i, s.alen.toNat + s.blen.toNat ≤ s.params.inBytes → FirstBadSymbol s.tailBytes i →
      ∃ t, exec (chkCreateOf v) s = .next t ∧ Fails s t .invalidSymbol i 0xFF 0) ∧
    (∀ p m : Acc, s.alen.toNat + s.blen.toNat ≤ s.params.inBytes → AllSymbols s.tailBytes →
      p = polymod (header s.hrpBytes ++ asSymbols s.tailBytes ++ [0, 0, 0, 0, 0, 0]) → m = p ^^^ target v →
      ∃ t, exec (chkCreateOf v) s = .next t ∧ Succeeds s t ∧ t.acc = s.acc ∧ t.outLen = 6 ∧
        (∀ k, k < 6 → t.outByteAt k = (m >>> (25 - 5 * k) &&& 31).setWidth 8) ∧
        t.res0 = m.setWidth 32 ∧ t.res1 = p.setWidth 32 ∧ KeepsRes2 s t)

/-- R121, R115, for both variants: a wrong checksum is a result, not an error. -/
def Obligations.ChkVerifyReportsChecksum : Prop :=
  ∀ v : Variant, EncodedByVar 0x06 (isBis v) (chkVerifyOf v) ∧
  ∀ s : State,
    (s.params.inBytes < s.alen.toNat + s.blen.toNat →
      ∃ t, exec (chkVerifyOf v) s = .next t ∧ Fails s t .argRange 3 0xFF 0) ∧
    (∀ i, s.alen.toNat + s.blen.toNat ≤ s.params.inBytes → FirstBadSymbol s.tailBytes i →
      ∃ t, exec (chkVerifyOf v) s = .next t ∧ Fails s t .invalidSymbol i 0xFF 0) ∧
    (∀ p : Acc, s.alen.toNat + s.blen.toNat ≤ s.params.inBytes → AllSymbols s.tailBytes →
      p = polymod (header s.hrpBytes ++ asSymbols s.tailBytes) →
      ∃ t, exec (chkVerifyOf v) s = .next t ∧ Succeeds s t ∧ t.acc = s.acc ∧ KeepsOutLen s t ∧
        (p = target v → t.res0 = 1) ∧ (p ≠ target v → t.res0 = 0) ∧ t.res1 = p.setWidth 32 ∧ KeepsRes2 s t)

/-- R141, R133, for both variants: prefix, separator when there is a prefix, and the alphabet's characters of data and
checksum. -/
def Obligations.B32EncodeWritesText : Prop :=
  ∀ v : Variant, EncodedByVar 0x07 (isBis v) (b32EncOf v) ∧
  ∀ s : State,
    (s.params.inBytes < s.alen.toNat + s.blen.toNat →
      ∃ t, exec (b32EncOf v) s = .next t ∧ Fails s t .argRange 3 0xFF 0) ∧
    (∀ i, s.alen.toNat + s.blen.toNat ≤ s.params.inBytes → FirstBadSymbol s.tailBytes i →
      ∃ t, exec (b32EncOf v) s = .next t ∧ Fails s t .invalidSymbol i 0xFF 0) ∧
    (∀ (m : Acc) (c : List Symbol) (text : List Byte), s.alen.toNat + s.blen.toNat ≤ s.params.inBytes →
      AllSymbols s.tailBytes → createChecksum s.hrpBytes (asSymbols s.tailBytes) v = (m, c) →
      text = (if s.alen = 0 then [] else s.hrpBytes ++ [0x31]) ++ (asSymbols s.tailBytes ++ c).map sym →
      text.length = (if s.alen = 0 then 0 else s.alen.toNat + 1) + s.blen.toNat + 6 ∧
      (s.params.outBytes < text.length →
        ∃ t, exec (b32EncOf v) s = .next t ∧ Fails s t .outOverflow 1 0xFF 0) ∧
      (text.length ≤ s.params.outBytes →
        ∃ t, exec (b32EncOf v) s = .next t ∧ Succeeds s t ∧ t.acc = s.acc ∧ Outputs t text ∧
          t.res0 = m.setWidth 32 ∧ KeepsRes1 s t ∧ KeepsRes2 s t))

/-- R142: prefix and data symbols of the decoded text, or the decoder's error with FRAG = 0xFF and FIELD = 1. -/
def Obligations.B32DecodeReportsText : Prop :=
  EncodedBy 0x08 .b32Dec ∧
  ∀ s : State,
    (s.params.inBytes < s.blen.toNat → ∃ t, exec .b32Dec s = .next t ∧ Fails s t .argRange 2 0xFF 0) ∧
    (∀ e, s.blen.toNat ≤ s.params.inBytes → bech32Decode s.textBytes = .error e →
      ∃ t, exec .b32Dec s = .next t ∧ Fails s t e.code e.detail 0xFF 1) ∧
    (∀ (h : List Byte) (d : List Symbol) (v : Variant), s.blen.toNat ≤ s.params.inBytes →
      bech32Decode s.textBytes = .ok ⟨h, d, v⟩ →
      (s.params.outBytes < h.length + d.length →
        ∃ t, exec .b32Dec s = .next t ∧ Fails s t .outOverflow 1 0xFF 0) ∧
      (h.length + d.length ≤ s.params.outBytes →
        ∃ t, exec .b32Dec s = .next t ∧ Succeeds s t ∧ t.acc = s.acc ∧
          Outputs t (h ++ d.map (fun x => x.setWidth 8)) ∧ t.res0 = BitVec.ofNat 32 h.length ∧
          t.res1 = BitVec.ofNat 32 d.length ∧ t.res2 = (if isBis v then 1 else 0)))

/-- R143: prefix-less Bis text of `ceil(8·BLEN/5) + 6` characters. -/
def Obligations.B32EncodeDataWritesText : Prop :=
  EncodedBy 0x09 .b32Encd ∧
  ∀ s : State,
    (s.params.inBytes < s.blen.toNat → ∃ t, exec .b32Encd s = .next t ∧ Fails s t .argRange 2 0xFF 0) ∧
    (∀ (text : List Byte) (m : Acc), s.blen.toNat ≤ s.params.inBytes →
      bech32Encode [] (pack8to5 s.textBytes) .bis = (text, m) →
      text.length = (8 * s.blen.toNat + 4) / 5 + 6 ∧
      (s.params.outBytes < text.length →
        ∃ t, exec .b32Encd s = .next t ∧ Fails s t .outOverflow 1 0xFF 0) ∧
      (text.length ≤ s.params.outBytes →
        ∃ t, exec .b32Encd s = .next t ∧ Succeeds s t ∧ t.acc = s.acc ∧ Outputs t text ∧
          t.res0 = m.setWidth 32 ∧ t.res1 = BitVec.ofNat 32 ((8 * s.blen.toNat + 4) / 5) ∧ KeepsRes2 s t))

/-- R144: the bytes of a text of either form, `floor(5·RES1/8)` of them, or the decoder's error with FRAG = 0xFF and
FIELD = 1. -/
def Obligations.B32DecodeDataReportsBytes : Prop :=
  EncodedBy 0x0A .b32Decd ∧
  ∀ s : State,
    (s.params.inBytes < s.blen.toNat → ∃ t, exec .b32Decd s = .next t ∧ Fails s t .argRange 2 0xFF 0) ∧
    (∀ e, s.blen.toNat ≤ s.params.inBytes → decodeData s.textBytes = .error e →
      ∃ t, exec .b32Decd s = .next t ∧ Fails s t e.code e.detail 0xFF 1) ∧
    (∀ (bytes h : List Byte) (d : List Symbol) (v : Variant), s.blen.toNat ≤ s.params.inBytes →
      decodeData s.textBytes = .ok (bytes, ⟨h, d, v⟩) →
      bytes.length = 5 * d.length / 8 ∧
      (s.params.outBytes < bytes.length →
        ∃ t, exec .b32Decd s = .next t ∧ Fails s t .outOverflow 1 0xFF 0) ∧
      (bytes.length ≤ s.params.outBytes →
        ∃ t, exec .b32Decd s = .next t ∧ Succeeds s t ∧ t.acc = s.acc ∧ Outputs t bytes ∧
          t.res0 = BitVec.ofNat 32 h.length ∧ t.res1 = BitVec.ofNat 32 d.length ∧
          t.res2 = (if isBis v then 1 else 0)))

/-- R172: the probe of the fragment at INBUF, its three results or its error. -/
def Obligations.UrProbeReportsToken : Prop :=
  EncodedBy 0x0B .urProbe ∧
  ∀ s : State,
    (s.params.inBytes < s.blen.toNat → ∃ t, exec .urProbe s = .next t ∧ Fails s t .argRange 2 0xFF 0) ∧
    (∀ e, s.blen.toNat ≤ s.params.inBytes → probe s.textBytes = .error e →
      ∃ t, exec .urProbe s = .next t ∧ Fails s t e.code e.detail e.frag e.field) ∧
    (∀ index total np : Nat, s.blen.toNat ≤ s.params.inBytes → probe s.textBytes = .ok ⟨index, total, np⟩ →
      ∃ t, exec .urProbe s = .next t ∧ Succeeds s t ∧ t.acc = s.acc ∧ KeepsOutLen s t ∧
        t.res0 = BitVec.ofNat 32 index ∧ t.res1 = BitVec.ofNat 32 total ∧ t.res2 = BitVec.ofNat 32 np)

/-- R173, R95, R165: the argument checks in their order, then the decoder's result or error on the expected type and the
described fragments, then the output capacity. The hash in the decoder's clauses is the model's `sha256`, which log 10
takes from outside the spec (PRESUMED): R9 names FIPS 180-4 SHA-256 and does not define it. -/
def Obligations.UrDecodeReportsPayload : Prop :=
  EncodedBy 0x0C .urDec ∧
  ∀ s : State,
    (s.params.inBytes < s.alen.toNat → ∃ t, exec .urDec s = .next t ∧ Fails s t .argRange 1 0xFF 0) ∧
    (s.alen.toNat ≤ s.params.inBytes → s.params.maxFrags < s.fcount.toNat →
      ∃ t, exec .urDec s = .next t ∧ Fails s t .argRange 4 0xFF 0) ∧
    (∀ k, s.alen.toNat ≤ s.params.inBytes → s.fcount.toNat ≤ s.params.maxFrags → k < s.fcount.toNat →
      s.params.inBytes < s.descOff k + s.descLen k →
      (∀ j, j < k → s.descOff j + s.descLen j ≤ s.params.inBytes) →
      ∃ t, exec .urDec s = .next t ∧ Fails s t .argRange 5 k 0) ∧
    (s.alen.toNat ≤ s.params.inBytes → s.fcount.toNat ≤ s.params.maxFrags →
      (∀ k, k < s.fcount.toNat → s.descOff k + s.descLen k ≤ s.params.inBytes) →
      (∀ e, urDecode sha256 s.params.scratchBytes (if s.alen = 0 then defaultType else s.hrpBytes)
          ((List.range s.fcount.toNat).map (fun k => s.inRead (s.descOff k) (s.descLen k))) = .error e →
        ∃ t, exec .urDec s = .next t ∧ Fails s t e.code e.detail e.frag e.field) ∧
      (∀ (b : List Byte) (total checked plen : Nat),
        urDecode sha256 s.params.scratchBytes (if s.alen = 0 then defaultType else s.hrpBytes)
          ((List.range s.fcount.toNat).map (fun k => s.inRead (s.descOff k) (s.descLen k))) =
            .ok ⟨b, total, checked, plen⟩ →
        (s.params.outBytes < b.length → ∃ t, exec .urDec s = .next t ∧ Fails s t .outOverflow 1 0xFF 0) ∧
        (b.length ≤ s.params.outBytes →
          ∃ t, exec .urDec s = .next t ∧ Succeeds s t ∧ t.acc = s.acc ∧ Outputs t b ∧
            t.res0 = BitVec.ofNat 32 total ∧ t.res1 = BitVec.ofNat 32 checked ∧ t.res2 = BitVec.ofNat 32 plen)))

/-! ### The pure functions -/

/-- R110: the five bits [29:25] select the five generators, the low 25 bits move up by 5, the symbol is XORed in. -/
def Obligations.PolymodStepFormula : Prop :=
  ∀ (acc : Acc) (v : Symbol), polyStep acc v =
    ((acc &&& 0x1ffffff) <<< 5) ^^^ v.setWidth 30 ^^^
      (if acc.getLsbD 25 then 0x3b6a57b2 else 0) ^^^ (if acc.getLsbD 26 then 0x26508e6d else 0) ^^^
      (if acc.getLsbD 27 then 0x1ea119fa else 0) ^^^ (if acc.getLsbD 28 then 0x3d4233dd else 0) ^^^
      (if acc.getLsbD 29 then 0x2a1462b3 else 0)

/-- R122 (a): the step is linear. -/
def Obligations.PolymodStepIsLinear : Prop :=
  ∀ (a b : Acc) (v w : Symbol), polyStep (a ^^^ b) (v ^^^ w) = polyStep a v ^^^ polyStep b w ∧
    polyStep a v = polyStep a 0 ^^^ v.setWidth 30

/-- R122 (b): data followed by its checksum verifies. -/
def Obligations.CreatedChecksumVerifies : Prop :=
  ∀ (h : List Byte) (d : List Symbol) (v : Variant),
    verifyChecksum h (d ++ (createChecksum h d v).2) v = (true, target v)

/-- R122 (c), R136 (b): fewer than six symbols without prefix never verify as Bis. -/
def Obligations.ShortBisSequencesFail : Prop :=
  ∀ e : List Symbol, e.length < 6 → (verifyChecksum [] e .bis).1 = false

/-- From R110, R111 (R122 (a)): changing one symbol always changes the polymod, so no single wrong symbol verifies. -/
def Obligations.SingleSymbolErrorIsDetected : Prop :=
  ∀ (h : List Byte) (p q : List Symbol) (x y : Symbol) (v : Variant), x ≠ y →
    (verifyChecksum h (p ++ x :: q) v).1 = true → (verifyChecksum h (p ++ y :: q) v).1 = false

/-- R130, R131: the symbol table, and `Val`, the inverse of `Sym` on its 32 bytes and NONE on every other byte. -/
def Obligations.ValInvertsSym : Prop :=
  (List.range 32).map (fun k => sym (BitVec.ofNat 5 k)) =
    [0x71, 0x70, 0x7A, 0x72, 0x79, 0x39, 0x78, 0x38, 0x67, 0x66, 0x32, 0x74, 0x76, 0x64, 0x77, 0x30,
      0x73, 0x33, 0x6A, 0x6E, 0x35, 0x34, 0x6B, 0x68, 0x63, 0x65, 0x36, 0x6D, 0x75, 0x61, 0x37, 0x6C] ∧
  (∀ x : Symbol, val (sym x) = some x) ∧ (∀ (b : Byte) (x : Symbol), val b = some x → sym x = b) ∧
    (∀ b : Byte, (∀ x : Symbol, sym x ≠ b) → val b = none)

/-- R134, R135: the checks of the decoder in their order, each described without the decoder's own functions, and what it
returns when none fails. -/
def Obligations.DecoderChecksInOrder : Prop :=
  ∀ t : List Byte,
    (∀ i, FirstIndex (fun b => b.toNat < 33 ∨ 126 < b.toNat) t i →
      bech32Decode t = .error ⟨.invalidCharRange, i⟩) ∧
    (AllInRange t → MixedCase t → bech32Decode t = .error ⟨.mixedCase, 0⟩) ∧
    (∀ pos, PlainText t → LastSeparator t pos →
      (pos < 1 → bech32Decode t = .error ⟨.separatorPosition, pos⟩) ∧
      (1 ≤ pos → t.length < pos + 7 → bech32Decode t = .error ⟨.separatorPosition, pos⟩) ∧
      (1 ≤ pos → pos + 7 ≤ t.length → 90 < t.length → bech32Decode t = .error ⟨.lengthExceeded, t.length⟩) ∧
      (∀ i, 1 ≤ pos → pos + 7 ≤ t.length → t.length ≤ 90 → FirstIndex NotInAlphabet (t.drop (pos + 1)) i →
        bech32Decode t = .error ⟨.notInAlphabet, pos + 1 + i⟩) ∧
      (∀ e, 1 ≤ pos → pos + 7 ≤ t.length → t.length ≤ 90 → SymbolsOf (t.drop (pos + 1)) e →
        (polymod (header ((t.take pos).map lower) ++ e) ≠ 1 → bech32Decode t = .error ⟨.invalidChecksum, 0⟩) ∧
        (polymod (header ((t.take pos).map lower) ++ e) = 1 →
          bech32Decode t = .ok ⟨(t.take pos).map lower, e.take (e.length - 6), .origin⟩))) ∧
    (PlainText t → (0x31#8 ∉ t) →
      (∀ i, FirstIndex NotInAlphabet t i → bech32Decode t = .error ⟨.notInAlphabet, i⟩) ∧
      (∀ e, SymbolsOf t e →
        (polymod (0 :: e) ≠ 0x3fffffff → bech32Decode t = .error ⟨.invalidChecksum, 0⟩) ∧
        (polymod (0 :: e) = 0x3fffffff → bech32Decode t = .ok ⟨[], e.take (t.length - 6), .bis⟩)))

/-- R137, R138: the packing's length; its bits, which are the bytes' bits, most significant first, zero-padded; and
unpacking inverts it. -/
def Obligations.PackingIsMsbFirstAndInvertible : Prop :=
  ∀ b : List Byte, (pack8to5 b).length = (8 * b.length + 4) / 5 ∧
    (∀ (i k : Nat) (h : i < (pack8to5 b).length), k < 5 →
      (pack8to5 b)[i].getLsbD (4 - k) = (b.getD ((5 * i + k) / 8) 0).getLsbD (7 - (5 * i + k) % 8)) ∧
    unpack5to8 (pack8to5 b) = .ok b

/-- R138: "It fails exactly when `len(s) mod 8 ∈ {1, 3, 6}` ... or when the leftover bits ... are not all zero; otherwise
`len(out) = floor(5·len(s) / 8)`". The leftover bits, fewer than 5, are the low `5·len(s) mod 8` bits of the last
symbol. -/
def Obligations.UnpackFailsExactlyOnBadPadding : Prop :=
  ∀ s : List Symbol,
    ((s.length % 8 = 1 ∨ s.length % 8 = 3 ∨ s.length % 8 = 6 ∨
        ∃ x ∈ s.getLast?, x.toNat % 2 ^ (5 * s.length % 8) ≠ 0) →
      unpack5to8 s = .error ⟨.invalidPadding, s.length⟩) ∧
    (¬ (s.length % 8 = 1 ∨ s.length % 8 = 3 ∨ s.length % 8 = 6 ∨
        ∃ x ∈ s.getLast?, x.toNat % 2 ^ (5 * s.length % 8) ≠ 0) →
      ∃ out, unpack5to8 s = .ok out ∧ out.length = 5 * s.length / 8)

/-- R145 (a): the prefixed form round-trips. -/
def Obligations.OriginTextRoundTrips : Prop :=
  ∀ (h : List Byte) (d : List Symbol), AllInRange h → (∀ b ∈ h, ¬ (65 ≤ b.toNat ∧ b.toNat ≤ 90)) → 1 ≤ h.length →
    h.length + 1 + d.length + 6 ≤ 90 → bech32Decode (bech32Encode h d .origin).1 = .ok ⟨h, d, .origin⟩

/-- R145 (b): the prefix-less form round-trips. -/
def Obligations.BisTextRoundTrips : Prop :=
  ∀ d : List Symbol, bech32Decode (bech32Encode [] d .bis).1 = .ok ⟨[], d, .bis⟩

/-- R145 (c): the data pair round-trips. -/
def Obligations.DataTextRoundTrips : Prop :=
  ∀ b : List Byte, ∃ d : List Symbol, decodeData (encodeData b).1 = .ok (b, ⟨[], d, .bis⟩)

/-- R164: the grammar of the sequencing token, its two values, and the two failures. -/
def Obligations.SequencingTokenGrammar : Prop :=
  ∀ tok : List Byte,
    (∀ a b, SeqToken tok a b → decimalValue a ≤ 0xFFFFFFFF → decimalValue b ≤ 0xFFFFFFFF →
      parseSeq tok = .ok (decimalValue a, decimalValue b)) ∧
    (∀ a b, SeqToken tok a b → (0xFFFFFFFF < decimalValue a ∨ 0xFFFFFFFF < decimalValue b) →
      parseSeq tok = .error ⟨.invalidSequencing, 2⟩) ∧
    ((∀ a b, ¬ SeqToken tok a b) → parseSeq tok = .error ⟨.invalidSequencing, 1⟩)

/-- R166: two or three parts imply (1, 1); four parts give the token's values when `1 ≤ index ≤ total`; any other part
count is MALFORMED_SHAPE. The part count is one more than the number of `/` (R11, R161). -/
def Obligations.ProbeFollowsPartCount : Prop :=
  ∀ f : List Byte,
    (f.count 0x2F = 1 → probe f = .ok ⟨1, 1, 2⟩) ∧ (f.count 0x2F = 2 → probe f = .ok ⟨1, 1, 3⟩) ∧
    ((f.count 0x2F < 1 ∨ 3 < f.count 0x2F) →
      probe f = .error ⟨.malformedShape, min (f.count 0x2F + 1) 0xFFFF, 0xFF, 0⟩) ∧
    (∀ p0 tok p2 p3 : List Byte, (∀ p ∈ [p0, tok, p2, p3], 0x2F#8 ∉ p) →
      f = p0 ++ [0x2F] ++ tok ++ [0x2F] ++ p2 ++ [0x2F] ++ p3 →
      (∀ e, parseSeq tok = .error e → probe f = .error ⟨e.code, e.detail, 0xFF, 3⟩) ∧
      (∀ index total, parseSeq tok = .ok (index, total) →
        (1 ≤ index ∧ index ≤ total → probe f = .ok ⟨index, total, 4⟩) ∧
        (¬ (1 ≤ index ∧ index ≤ total) → probe f = .error ⟨.invalidSequencing, 4, 0xFF, 3⟩)))

/-- R174 (a): when a set of two or more fragments decodes, its indices are 1 to n, each once, and every total is n. -/
def Obligations.DecodedIndicesArePermutation : Prop :=
  ∀ (sha : List Byte → List Byte) (scratch : Nat) (type : List Byte) (fs : List (List Byte)) (r : UrDecoded),
    2 ≤ fs.length → urDecode sha scratch type fs = .ok r →
    ∃ idx : List Nat, idx.Perm (List.range' 1 fs.length) ∧
      List.Forall₂ (fun f i => ∃ p0 tok dg chunk, parts f = [p0, tok, dg, chunk] ∧
        parseSeq tok = .ok (i, fs.length)) fs idx

/-- R174 (b): the order of the fragments does not decide whether a set decodes, nor to what. -/
def Obligations.FragmentOrderIsIrrelevant : Prop :=
  ∀ (sha : List Byte → List Byte) (scratch : Nat) (type : List Byte) (fs gs : List (List Byte)) (r : UrDecoded),
    2 ≤ fs.length → fs.Perm gs →
    (urDecode sha scratch type fs = .ok r ↔ urDecode sha scratch type gs = .ok r)

/-- R174 (c): the fragments a host builds by R160, with a type that holds no part separator, decode to the bytes they were
built from, for any hash of 32 bytes. The premise on the type is the model's reading: R160's grammar has one part for it. -/
def Obligations.HostFragmentsDecode : Prop :=
  ∀ (sha : List Byte → List Byte) (scratch capacity : Nat) (type framed : List Byte),
    (∀ b, (sha b).length = 32) → 1 ≤ capacity → (0x2F#8 ∉ type) →
    (hostFragments sha type framed capacity).length ≤ 254 → (encodeData framed).1.length ≤ scratch →
    ∃ total checked plen,
      urDecode sha scratch type (hostFragments sha type framed capacity) = .ok ⟨framed, total, checked, plen⟩

/-- R167, R170, R171: a set of two or more fragments decodes only if every fragment carries one digest field, that field
decodes to the hash of the bytes returned, and they are the bytes of a payload text within SCRATCH_BYTES. -/
def Obligations.DecodedSetMatchesItsDigest : Prop :=
  ∀ (sha : List Byte → List Byte) (scratch : Nat) (type : List Byte) (fs : List (List Byte)) (r : UrDecoded),
    2 ≤ fs.length → urDecode sha scratch type fs = .ok r →
    ∃ (dg pl : List Byte) (x y : Decoded),
      (∀ f ∈ fs, ∃ p0 tok chunk, parts f = [p0, tok, dg, chunk] ∧ headerMatches p0 type = true) ∧
      decodeData dg = .ok (sha r.bytes, x) ∧ (sha r.bytes).length = 32 ∧
      decodeData pl = .ok (r.bytes, y) ∧ pl.length ≤ scratch ∧
      r.total = fs.length ∧ r.checked = 1 ∧ r.plen = pl.length
end

