-- ==== Sys2Proof/Laws/State.lean ====
section
/-! SUPPORT. The update lemmas of State: for each shared update of Machine/Memory.lean, Machine/Ops.lean, Machine/Flags.lean,
Machine/Operands.lean and Machine/Engine.lean, one lemma per field, true by rfl. No later proof unfolds a record update. -/

namespace Sys2Proof.Machine


/-! ### `popInput` -/

@[simp] theorem popInput_params (s : State) : s.popInput.params = s.params := rfl
@[simp] theorem popInput_rst (s : State) : s.popInput.rst = s.rst := rfl
@[simp] theorem popInput_eng (s : State) : s.popInput.eng = s.eng := rfl
@[simp] theorem popInput_ie (s : State) : s.popInput.ie = s.ie := rfl
@[simp] theorem popInput_cmd (s : State) : s.popInput.cmd = s.cmd := rfl
@[simp] theorem popInput_done (s : State) : s.popInput.done = s.done := rfl
@[simp] theorem popInput_haz (s : State) : s.popInput.haz = s.haz := rfl
@[simp] theorem popInput_errcode (s : State) : s.popInput.errcode = s.errcode := rfl
@[simp] theorem popInput_errInfo (s : State) : s.popInput.errInfo = s.errInfo := rfl
@[simp] theorem popInput_alen (s : State) : s.popInput.alen = s.alen := rfl
@[simp] theorem popInput_blen (s : State) : s.popInput.blen = s.blen := rfl
@[simp] theorem popInput_fcount (s : State) : s.popInput.fcount = s.fcount := rfl
@[simp] theorem popInput_outLen (s : State) : s.popInput.outLen = s.outLen := rfl
@[simp] theorem popInput_acc (s : State) : s.popInput.acc = s.acc := rfl
@[simp] theorem popInput_res0 (s : State) : s.popInput.res0 = s.res0 := rfl
@[simp] theorem popInput_res1 (s : State) : s.popInput.res1 = s.res1 := rfl
@[simp] theorem popInput_res2 (s : State) : s.popInput.res2 = s.res2 := rfl
@[simp] theorem popInput_mem (s : State) : s.popInput.mem = s.mem := rfl
@[simp] theorem popInput_ramDraw (s : State) : s.popInput.ramDraw = s.ramDraw := rfl
@[simp] theorem popInput_outDraw (s : State) : s.popInput.outDraw = s.outDraw := rfl
@[simp] theorem popInput_busDraw (s : State) : s.popInput.busDraw = s.busDraw := rfl
@[simp] theorem popInput_inputs (s : State) : s.popInput.inputs = s.inputs.tail := rfl
@[simp] theorem popInput_answer (s : State) : s.popInput.answer = none := rfl

/-! ### `issue` -/

@[simp] theorem issue_params (w : Word) (s : State) : (issue w s).params = s.params := rfl
@[simp] theorem issue_rst (w : Word) (s : State) : (issue w s).rst = s.rst := rfl
@[simp] theorem issue_eng (w : Word) (s : State) : (issue w s).eng = .busy := rfl
@[simp] theorem issue_ie (w : Word) (s : State) : (issue w s).ie = s.ie := rfl
@[simp] theorem issue_cmd (w : Word) (s : State) : (issue w s).cmd = w := rfl
@[simp] theorem issue_done (w : Word) (s : State) : (issue w s).done = false := rfl
@[simp] theorem issue_haz (w : Word) (s : State) : (issue w s).haz = s.haz := rfl
@[simp] theorem issue_errcode (w : Word) (s : State) : (issue w s).errcode = 0 := rfl
@[simp] theorem issue_errInfo (w : Word) (s : State) : (issue w s).errInfo = .zero := rfl
@[simp] theorem issue_alen (w : Word) (s : State) : (issue w s).alen = s.alen := rfl
@[simp] theorem issue_blen (w : Word) (s : State) : (issue w s).blen = s.blen := rfl
@[simp] theorem issue_fcount (w : Word) (s : State) : (issue w s).fcount = s.fcount := rfl
@[simp] theorem issue_outLen (w : Word) (s : State) : (issue w s).outLen = 0 := rfl
@[simp] theorem issue_acc (w : Word) (s : State) : (issue w s).acc = s.acc := rfl
@[simp] theorem issue_res0 (w : Word) (s : State) : (issue w s).res0 = 0 := rfl
@[simp] theorem issue_res1 (w : Word) (s : State) : (issue w s).res1 = 0 := rfl
@[simp] theorem issue_res2 (w : Word) (s : State) : (issue w s).res2 = 0 := rfl
@[simp] theorem issue_mem (w : Word) (s : State) : (issue w s).mem = s.mem := rfl
@[simp] theorem issue_ramDraw (w : Word) (s : State) : (issue w s).ramDraw = s.ramDraw := rfl
@[simp] theorem issue_outDraw (w : Word) (s : State) : (issue w s).outDraw = s.outDraw := rfl
@[simp] theorem issue_busDraw (w : Word) (s : State) : (issue w s).busDraw = s.busDraw := rfl
@[simp] theorem issue_inputs (w : Word) (s : State) : (issue w s).inputs = s.inputs := rfl
@[simp] theorem issue_answer (w : Word) (s : State) : (issue w s).answer = s.answer := rfl

/-! ### `issued` -/

@[simp] theorem issued_params (w : Word) (s : State) : (issued w s).params = s.params := rfl
@[simp] theorem issued_rst (w : Word) (s : State) : (issued w s).rst = false := rfl
@[simp] theorem issued_eng (w : Word) (s : State) : (issued w s).eng = .busy := rfl
@[simp] theorem issued_ie (w : Word) (s : State) : (issued w s).ie = s.ie := rfl
@[simp] theorem issued_cmd (w : Word) (s : State) : (issued w s).cmd = w := rfl
@[simp] theorem issued_done (w : Word) (s : State) : (issued w s).done = false := rfl
@[simp] theorem issued_haz (w : Word) (s : State) : (issued w s).haz = s.haz := rfl
@[simp] theorem issued_errcode (w : Word) (s : State) : (issued w s).errcode = 0 := rfl
@[simp] theorem issued_errInfo (w : Word) (s : State) : (issued w s).errInfo = .zero := rfl
@[simp] theorem issued_alen (w : Word) (s : State) : (issued w s).alen = s.alen := rfl
@[simp] theorem issued_blen (w : Word) (s : State) : (issued w s).blen = s.blen := rfl
@[simp] theorem issued_fcount (w : Word) (s : State) : (issued w s).fcount = s.fcount := rfl
@[simp] theorem issued_outLen (w : Word) (s : State) : (issued w s).outLen = 0 := rfl
@[simp] theorem issued_acc (w : Word) (s : State) : (issued w s).acc = s.acc := rfl
@[simp] theorem issued_res0 (w : Word) (s : State) : (issued w s).res0 = 0 := rfl
@[simp] theorem issued_res1 (w : Word) (s : State) : (issued w s).res1 = 0 := rfl
@[simp] theorem issued_res2 (w : Word) (s : State) : (issued w s).res2 = 0 := rfl
@[simp] theorem issued_mem (w : Word) (s : State) : (issued w s).mem = s.mem := rfl
@[simp] theorem issued_ramDraw (w : Word) (s : State) : (issued w s).ramDraw = s.ramDraw := rfl
@[simp] theorem issued_outDraw (w : Word) (s : State) : (issued w s).outDraw = s.outDraw := rfl
@[simp] theorem issued_busDraw (w : Word) (s : State) : (issued w s).busDraw = s.busDraw := rfl
@[simp] theorem issued_inputs (w : Word) (s : State) : (issued w s).inputs = .engine :: s.inputs := rfl
@[simp] theorem issued_answer (w : Word) (s : State) : (issued w s).answer = s.answer := rfl

/-! ### `complete` -/

@[simp] theorem complete_params (s : State) : (complete s).params = s.params := rfl
@[simp] theorem complete_rst (s : State) : (complete s).rst = s.rst := rfl
@[simp] theorem complete_eng (s : State) : (complete s).eng = .idle := rfl
@[simp] theorem complete_ie (s : State) : (complete s).ie = s.ie := rfl
@[simp] theorem complete_cmd (s : State) : (complete s).cmd = s.cmd := rfl
@[simp] theorem complete_done (s : State) : (complete s).done = true := rfl
@[simp] theorem complete_haz (s : State) : (complete s).haz = s.haz := rfl
@[simp] theorem complete_errcode (s : State) : (complete s).errcode = 0 := rfl
@[simp] theorem complete_errInfo (s : State) : (complete s).errInfo = .zero := rfl
@[simp] theorem complete_alen (s : State) : (complete s).alen = s.alen := rfl
@[simp] theorem complete_blen (s : State) : (complete s).blen = s.blen := rfl
@[simp] theorem complete_fcount (s : State) : (complete s).fcount = s.fcount := rfl
@[simp] theorem complete_outLen (s : State) : (complete s).outLen = s.outLen := rfl
@[simp] theorem complete_acc (s : State) : (complete s).acc = s.acc := rfl
@[simp] theorem complete_res0 (s : State) : (complete s).res0 = s.res0 := rfl
@[simp] theorem complete_res1 (s : State) : (complete s).res1 = s.res1 := rfl
@[simp] theorem complete_res2 (s : State) : (complete s).res2 = s.res2 := rfl
@[simp] theorem complete_mem (s : State) : (complete s).mem = s.mem := rfl
@[simp] theorem complete_ramDraw (s : State) : (complete s).ramDraw = s.ramDraw := rfl
@[simp] theorem complete_outDraw (s : State) : (complete s).outDraw = s.outDraw := rfl
@[simp] theorem complete_busDraw (s : State) : (complete s).busDraw = s.busDraw := rfl
@[simp] theorem complete_inputs (s : State) : (complete s).inputs = s.inputs := rfl
@[simp] theorem complete_answer (s : State) : (complete s).answer = s.answer := rfl

/-! ### `raiseError` -/

@[simp] theorem raiseError_params (e : CmdError) (s : State) : (raiseError e s).params = s.params := rfl
@[simp] theorem raiseError_rst (e : CmdError) (s : State) : (raiseError e s).rst = s.rst := rfl
@[simp] theorem raiseError_eng (e : CmdError) (s : State) : (raiseError e s).eng = .idle := rfl
@[simp] theorem raiseError_ie (e : CmdError) (s : State) : (raiseError e s).ie = s.ie := rfl
@[simp] theorem raiseError_cmd (e : CmdError) (s : State) : (raiseError e s).cmd = s.cmd := rfl
@[simp] theorem raiseError_done (e : CmdError) (s : State) : (raiseError e s).done = true := rfl
@[simp] theorem raiseError_haz (e : CmdError) (s : State) : (raiseError e s).haz = s.haz := rfl
@[simp] theorem raiseError_errcode (e : CmdError) (s : State) : (raiseError e s).errcode = errorNumber e.code := rfl
@[simp] theorem raiseError_errInfo (e : CmdError) (s : State) : (raiseError e s).errInfo = e.info := rfl
@[simp] theorem raiseError_alen (e : CmdError) (s : State) : (raiseError e s).alen = s.alen := rfl
@[simp] theorem raiseError_blen (e : CmdError) (s : State) : (raiseError e s).blen = s.blen := rfl
@[simp] theorem raiseError_fcount (e : CmdError) (s : State) : (raiseError e s).fcount = s.fcount := rfl
@[simp] theorem raiseError_outLen (e : CmdError) (s : State) : (raiseError e s).outLen = s.outLen := rfl
@[simp] theorem raiseError_acc (e : CmdError) (s : State) : (raiseError e s).acc = s.acc := rfl
@[simp] theorem raiseError_res0 (e : CmdError) (s : State) : (raiseError e s).res0 = s.res0 := rfl
@[simp] theorem raiseError_res1 (e : CmdError) (s : State) : (raiseError e s).res1 = s.res1 := rfl
@[simp] theorem raiseError_res2 (e : CmdError) (s : State) : (raiseError e s).res2 = s.res2 := rfl
@[simp] theorem raiseError_mem (e : CmdError) (s : State) : (raiseError e s).mem = Memory.below s.mem outBase := rfl
@[simp] theorem raiseError_ramDraw (e : CmdError) (s : State) : (raiseError e s).ramDraw = s.ramDraw := rfl
@[simp] theorem raiseError_outDraw (e : CmdError) (s : State) : (raiseError e s).outDraw = s.outDraw + 1 := rfl
@[simp] theorem raiseError_busDraw (e : CmdError) (s : State) : (raiseError e s).busDraw = s.busDraw := rfl
@[simp] theorem raiseError_inputs (e : CmdError) (s : State) : (raiseError e s).inputs = s.inputs := rfl
@[simp] theorem raiseError_answer (e : CmdError) (s : State) : (raiseError e s).answer = s.answer := rfl

/-! ### `hazard` -/

@[simp] theorem hazard_params (s : State) : (hazard s).params = s.params := rfl
@[simp] theorem hazard_rst (s : State) : (hazard s).rst = s.rst := rfl
@[simp] theorem hazard_eng (s : State) : (hazard s).eng = s.eng := rfl
@[simp] theorem hazard_ie (s : State) : (hazard s).ie = s.ie := rfl
@[simp] theorem hazard_cmd (s : State) : (hazard s).cmd = s.cmd := rfl
@[simp] theorem hazard_done (s : State) : (hazard s).done = s.done := rfl
@[simp] theorem hazard_haz (s : State) : (hazard s).haz = true := rfl
@[simp] theorem hazard_errcode (s : State) : (hazard s).errcode = s.errcode := rfl
@[simp] theorem hazard_errInfo (s : State) : (hazard s).errInfo = s.errInfo := rfl
@[simp] theorem hazard_alen (s : State) : (hazard s).alen = s.alen := rfl
@[simp] theorem hazard_blen (s : State) : (hazard s).blen = s.blen := rfl
@[simp] theorem hazard_fcount (s : State) : (hazard s).fcount = s.fcount := rfl
@[simp] theorem hazard_outLen (s : State) : (hazard s).outLen = s.outLen := rfl
@[simp] theorem hazard_acc (s : State) : (hazard s).acc = s.acc := rfl
@[simp] theorem hazard_res0 (s : State) : (hazard s).res0 = s.res0 := rfl
@[simp] theorem hazard_res1 (s : State) : (hazard s).res1 = s.res1 := rfl
@[simp] theorem hazard_res2 (s : State) : (hazard s).res2 = s.res2 := rfl
@[simp] theorem hazard_mem (s : State) : (hazard s).mem = s.mem := rfl
@[simp] theorem hazard_ramDraw (s : State) : (hazard s).ramDraw = s.ramDraw := rfl
@[simp] theorem hazard_outDraw (s : State) : (hazard s).outDraw = s.outDraw := rfl
@[simp] theorem hazard_busDraw (s : State) : (hazard s).busDraw = s.busDraw := rfl
@[simp] theorem hazard_inputs (s : State) : (hazard s).inputs = s.inputs := rfl
@[simp] theorem hazard_answer (s : State) : (hazard s).answer = s.answer := rfl

/-! ### `resetRegisters` -/

@[simp] theorem resetRegisters_params (s : State) : (resetRegisters s).params = s.params := rfl
@[simp] theorem resetRegisters_rst (s : State) : (resetRegisters s).rst = s.rst := rfl
@[simp] theorem resetRegisters_eng (s : State) : (resetRegisters s).eng = .idle := rfl
@[simp] theorem resetRegisters_ie (s : State) : (resetRegisters s).ie = false := rfl
@[simp] theorem resetRegisters_cmd (s : State) : (resetRegisters s).cmd = 0 := rfl
@[simp] theorem resetRegisters_done (s : State) : (resetRegisters s).done = false := rfl
@[simp] theorem resetRegisters_haz (s : State) : (resetRegisters s).haz = false := rfl
@[simp] theorem resetRegisters_errcode (s : State) : (resetRegisters s).errcode = 0 := rfl
@[simp] theorem resetRegisters_errInfo (s : State) : (resetRegisters s).errInfo = .zero := rfl
@[simp] theorem resetRegisters_alen (s : State) : (resetRegisters s).alen = 0 := rfl
@[simp] theorem resetRegisters_blen (s : State) : (resetRegisters s).blen = 0 := rfl
@[simp] theorem resetRegisters_fcount (s : State) : (resetRegisters s).fcount = 0 := rfl
@[simp] theorem resetRegisters_outLen (s : State) : (resetRegisters s).outLen = 0 := rfl
@[simp] theorem resetRegisters_acc (s : State) : (resetRegisters s).acc = 1 := rfl
@[simp] theorem resetRegisters_res0 (s : State) : (resetRegisters s).res0 = 0 := rfl
@[simp] theorem resetRegisters_res1 (s : State) : (resetRegisters s).res1 = 0 := rfl
@[simp] theorem resetRegisters_res2 (s : State) : (resetRegisters s).res2 = 0 := rfl
@[simp] theorem resetRegisters_mem (s : State) : (resetRegisters s).mem = s.mem := rfl
@[simp] theorem resetRegisters_ramDraw (s : State) : (resetRegisters s).ramDraw = s.ramDraw := rfl
@[simp] theorem resetRegisters_outDraw (s : State) : (resetRegisters s).outDraw = s.outDraw := rfl
@[simp] theorem resetRegisters_busDraw (s : State) : (resetRegisters s).busDraw = s.busDraw := rfl
@[simp] theorem resetRegisters_inputs (s : State) : (resetRegisters s).inputs = s.inputs := rfl
@[simp] theorem resetRegisters_answer (s : State) : (resetRegisters s).answer = s.answer := rfl

/-! ### `softReset` -/

@[simp] theorem softReset_params (s : State) : (softReset s).params = s.params := rfl
@[simp] theorem softReset_rst (s : State) : (softReset s).rst = s.rst := rfl
@[simp] theorem softReset_eng (s : State) : (softReset s).eng = .idle := rfl
@[simp] theorem softReset_ie (s : State) : (softReset s).ie = false := rfl
@[simp] theorem softReset_cmd (s : State) : (softReset s).cmd = 0 := rfl
@[simp] theorem softReset_done (s : State) : (softReset s).done = false := rfl
@[simp] theorem softReset_haz (s : State) : (softReset s).haz = false := rfl
@[simp] theorem softReset_errcode (s : State) : (softReset s).errcode = 0 := rfl
@[simp] theorem softReset_errInfo (s : State) : (softReset s).errInfo = .zero := rfl
@[simp] theorem softReset_alen (s : State) : (softReset s).alen = 0 := rfl
@[simp] theorem softReset_blen (s : State) : (softReset s).blen = 0 := rfl
@[simp] theorem softReset_fcount (s : State) : (softReset s).fcount = 0 := rfl
@[simp] theorem softReset_outLen (s : State) : (softReset s).outLen = 0 := rfl
@[simp] theorem softReset_acc (s : State) : (softReset s).acc = 1 := rfl
@[simp] theorem softReset_res0 (s : State) : (softReset s).res0 = 0 := rfl
@[simp] theorem softReset_res1 (s : State) : (softReset s).res1 = 0 := rfl
@[simp] theorem softReset_res2 (s : State) : (softReset s).res2 = 0 := rfl
@[simp] theorem softReset_mem (s : State) : (softReset s).mem = Memory.below s.mem outBase := rfl
@[simp] theorem softReset_ramDraw (s : State) : (softReset s).ramDraw = s.ramDraw := rfl
@[simp] theorem softReset_outDraw (s : State) : (softReset s).outDraw = s.outDraw + 1 := rfl
@[simp] theorem softReset_busDraw (s : State) : (softReset s).busDraw = s.busDraw := rfl
@[simp] theorem softReset_inputs (s : State) : (softReset s).inputs = s.inputs := rfl
@[simp] theorem softReset_answer (s : State) : (softReset s).answer = s.answer := rfl

/-! ### `spoilOut` -/

@[simp] theorem spoilOut_params (s : State) : s.spoilOut.params = s.params := rfl
@[simp] theorem spoilOut_rst (s : State) : s.spoilOut.rst = s.rst := rfl
@[simp] theorem spoilOut_eng (s : State) : s.spoilOut.eng = s.eng := rfl
@[simp] theorem spoilOut_ie (s : State) : s.spoilOut.ie = s.ie := rfl
@[simp] theorem spoilOut_cmd (s : State) : s.spoilOut.cmd = s.cmd := rfl
@[simp] theorem spoilOut_done (s : State) : s.spoilOut.done = s.done := rfl
@[simp] theorem spoilOut_haz (s : State) : s.spoilOut.haz = s.haz := rfl
@[simp] theorem spoilOut_errcode (s : State) : s.spoilOut.errcode = s.errcode := rfl
@[simp] theorem spoilOut_errInfo (s : State) : s.spoilOut.errInfo = s.errInfo := rfl
@[simp] theorem spoilOut_alen (s : State) : s.spoilOut.alen = s.alen := rfl
@[simp] theorem spoilOut_blen (s : State) : s.spoilOut.blen = s.blen := rfl
@[simp] theorem spoilOut_fcount (s : State) : s.spoilOut.fcount = s.fcount := rfl
@[simp] theorem spoilOut_outLen (s : State) : s.spoilOut.outLen = s.outLen := rfl
@[simp] theorem spoilOut_acc (s : State) : s.spoilOut.acc = s.acc := rfl
@[simp] theorem spoilOut_res0 (s : State) : s.spoilOut.res0 = s.res0 := rfl
@[simp] theorem spoilOut_res1 (s : State) : s.spoilOut.res1 = s.res1 := rfl
@[simp] theorem spoilOut_res2 (s : State) : s.spoilOut.res2 = s.res2 := rfl
@[simp] theorem spoilOut_mem (s : State) : s.spoilOut.mem = Memory.below s.mem outBase := rfl
@[simp] theorem spoilOut_ramDraw (s : State) : s.spoilOut.ramDraw = s.ramDraw := rfl
@[simp] theorem spoilOut_outDraw (s : State) : s.spoilOut.outDraw = s.outDraw + 1 := rfl
@[simp] theorem spoilOut_busDraw (s : State) : s.spoilOut.busDraw = s.busDraw := rfl
@[simp] theorem spoilOut_inputs (s : State) : s.spoilOut.inputs = s.inputs := rfl
@[simp] theorem spoilOut_answer (s : State) : s.spoilOut.answer = s.answer := rfl

/-! ### `spoilRam` -/

@[simp] theorem spoilRam_params (s : State) : s.spoilRam.params = s.params := rfl
@[simp] theorem spoilRam_rst (s : State) : s.spoilRam.rst = s.rst := rfl
@[simp] theorem spoilRam_eng (s : State) : s.spoilRam.eng = s.eng := rfl
@[simp] theorem spoilRam_ie (s : State) : s.spoilRam.ie = s.ie := rfl
@[simp] theorem spoilRam_cmd (s : State) : s.spoilRam.cmd = s.cmd := rfl
@[simp] theorem spoilRam_done (s : State) : s.spoilRam.done = s.done := rfl
@[simp] theorem spoilRam_haz (s : State) : s.spoilRam.haz = s.haz := rfl
@[simp] theorem spoilRam_errcode (s : State) : s.spoilRam.errcode = s.errcode := rfl
@[simp] theorem spoilRam_errInfo (s : State) : s.spoilRam.errInfo = s.errInfo := rfl
@[simp] theorem spoilRam_alen (s : State) : s.spoilRam.alen = s.alen := rfl
@[simp] theorem spoilRam_blen (s : State) : s.spoilRam.blen = s.blen := rfl
@[simp] theorem spoilRam_fcount (s : State) : s.spoilRam.fcount = s.fcount := rfl
@[simp] theorem spoilRam_outLen (s : State) : s.spoilRam.outLen = s.outLen := rfl
@[simp] theorem spoilRam_acc (s : State) : s.spoilRam.acc = s.acc := rfl
@[simp] theorem spoilRam_res0 (s : State) : s.spoilRam.res0 = s.res0 := rfl
@[simp] theorem spoilRam_res1 (s : State) : s.spoilRam.res1 = s.res1 := rfl
@[simp] theorem spoilRam_res2 (s : State) : s.spoilRam.res2 = s.res2 := rfl
@[simp] theorem spoilRam_mem (s : State) : s.spoilRam.mem = s.mem.filter (fun c => decide (outBase ≤ c.1)) := rfl
@[simp] theorem spoilRam_ramDraw (s : State) : s.spoilRam.ramDraw = s.ramDraw + 1 := rfl
@[simp] theorem spoilRam_outDraw (s : State) : s.spoilRam.outDraw = s.outDraw := rfl
@[simp] theorem spoilRam_busDraw (s : State) : s.spoilRam.busDraw = s.busDraw := rfl
@[simp] theorem spoilRam_inputs (s : State) : s.spoilRam.inputs = s.inputs := rfl
@[simp] theorem spoilRam_answer (s : State) : s.spoilRam.answer = s.answer := rfl

/-! ### `outWrite` -/

@[simp] theorem outWrite_params (s : State) (x : List Byte) : (s.outWrite x).params = s.params := rfl
@[simp] theorem outWrite_rst (s : State) (x : List Byte) : (s.outWrite x).rst = s.rst := rfl
@[simp] theorem outWrite_eng (s : State) (x : List Byte) : (s.outWrite x).eng = s.eng := rfl
@[simp] theorem outWrite_ie (s : State) (x : List Byte) : (s.outWrite x).ie = s.ie := rfl
@[simp] theorem outWrite_cmd (s : State) (x : List Byte) : (s.outWrite x).cmd = s.cmd := rfl
@[simp] theorem outWrite_done (s : State) (x : List Byte) : (s.outWrite x).done = s.done := rfl
@[simp] theorem outWrite_haz (s : State) (x : List Byte) : (s.outWrite x).haz = s.haz := rfl
@[simp] theorem outWrite_errcode (s : State) (x : List Byte) : (s.outWrite x).errcode = s.errcode := rfl
@[simp] theorem outWrite_errInfo (s : State) (x : List Byte) : (s.outWrite x).errInfo = s.errInfo := rfl
@[simp] theorem outWrite_alen (s : State) (x : List Byte) : (s.outWrite x).alen = s.alen := rfl
@[simp] theorem outWrite_blen (s : State) (x : List Byte) : (s.outWrite x).blen = s.blen := rfl
@[simp] theorem outWrite_fcount (s : State) (x : List Byte) : (s.outWrite x).fcount = s.fcount := rfl
@[simp] theorem outWrite_outLen (s : State) (x : List Byte) : (s.outWrite x).outLen = BitVec.ofNat 16 x.length := rfl
@[simp] theorem outWrite_acc (s : State) (x : List Byte) : (s.outWrite x).acc = s.acc := rfl
@[simp] theorem outWrite_res0 (s : State) (x : List Byte) : (s.outWrite x).res0 = s.res0 := rfl
@[simp] theorem outWrite_res1 (s : State) (x : List Byte) : (s.outWrite x).res1 = s.res1 := rfl
@[simp] theorem outWrite_res2 (s : State) (x : List Byte) : (s.outWrite x).res2 = s.res2 := rfl
@[simp] theorem outWrite_mem (s : State) (x : List Byte) : (s.outWrite x).mem = Memory.below s.mem outBase ++ Memory.cellsFrom outBase x := rfl
@[simp] theorem outWrite_ramDraw (s : State) (x : List Byte) : (s.outWrite x).ramDraw = s.ramDraw := rfl
@[simp] theorem outWrite_outDraw (s : State) (x : List Byte) : (s.outWrite x).outDraw = s.outDraw + 1 := rfl
@[simp] theorem outWrite_busDraw (s : State) (x : List Byte) : (s.outWrite x).busDraw = s.busDraw := rfl
@[simp] theorem outWrite_inputs (s : State) (x : List Byte) : (s.outWrite x).inputs = s.inputs := rfl
@[simp] theorem outWrite_answer (s : State) (x : List Byte) : (s.outWrite x).answer = s.answer := rfl

/-! ### `results` -/

@[simp] theorem results_params (s : State) (r0 r1 r2 : Word) : (s.results r0 r1 r2).params = s.params := rfl
@[simp] theorem results_rst (s : State) (r0 r1 r2 : Word) : (s.results r0 r1 r2).rst = s.rst := rfl
@[simp] theorem results_eng (s : State) (r0 r1 r2 : Word) : (s.results r0 r1 r2).eng = s.eng := rfl
@[simp] theorem results_ie (s : State) (r0 r1 r2 : Word) : (s.results r0 r1 r2).ie = s.ie := rfl
@[simp] theorem results_cmd (s : State) (r0 r1 r2 : Word) : (s.results r0 r1 r2).cmd = s.cmd := rfl
@[simp] theorem results_done (s : State) (r0 r1 r2 : Word) : (s.results r0 r1 r2).done = s.done := rfl
@[simp] theorem results_haz (s : State) (r0 r1 r2 : Word) : (s.results r0 r1 r2).haz = s.haz := rfl
@[simp] theorem results_errcode (s : State) (r0 r1 r2 : Word) : (s.results r0 r1 r2).errcode = s.errcode := rfl
@[simp] theorem results_errInfo (s : State) (r0 r1 r2 : Word) : (s.results r0 r1 r2).errInfo = s.errInfo := rfl
@[simp] theorem results_alen (s : State) (r0 r1 r2 : Word) : (s.results r0 r1 r2).alen = s.alen := rfl
@[simp] theorem results_blen (s : State) (r0 r1 r2 : Word) : (s.results r0 r1 r2).blen = s.blen := rfl
@[simp] theorem results_fcount (s : State) (r0 r1 r2 : Word) : (s.results r0 r1 r2).fcount = s.fcount := rfl
@[simp] theorem results_outLen (s : State) (r0 r1 r2 : Word) : (s.results r0 r1 r2).outLen = s.outLen := rfl
@[simp] theorem results_acc (s : State) (r0 r1 r2 : Word) : (s.results r0 r1 r2).acc = s.acc := rfl
@[simp] theorem results_res0 (s : State) (r0 r1 r2 : Word) : (s.results r0 r1 r2).res0 = r0 := rfl
@[simp] theorem results_res1 (s : State) (r0 r1 r2 : Word) : (s.results r0 r1 r2).res1 = r1 := rfl
@[simp] theorem results_res2 (s : State) (r0 r1 r2 : Word) : (s.results r0 r1 r2).res2 = r2 := rfl
@[simp] theorem results_mem (s : State) (r0 r1 r2 : Word) : (s.results r0 r1 r2).mem = s.mem := rfl
@[simp] theorem results_ramDraw (s : State) (r0 r1 r2 : Word) : (s.results r0 r1 r2).ramDraw = s.ramDraw := rfl
@[simp] theorem results_outDraw (s : State) (r0 r1 r2 : Word) : (s.results r0 r1 r2).outDraw = s.outDraw := rfl
@[simp] theorem results_busDraw (s : State) (r0 r1 r2 : Word) : (s.results r0 r1 r2).busDraw = s.busDraw := rfl
@[simp] theorem results_inputs (s : State) (r0 r1 r2 : Word) : (s.results r0 r1 r2).inputs = s.inputs := rfl
@[simp] theorem results_answer (s : State) (r0 r1 r2 : Word) : (s.results r0 r1 r2).answer = s.answer := rfl

/-! ### `storeWord` -/

@[simp] theorem storeWord_params (s : State) (a : Nat) (v : Word) : (s.storeWord a v).params = s.params := rfl
@[simp] theorem storeWord_rst (s : State) (a : Nat) (v : Word) : (s.storeWord a v).rst = s.rst := rfl
@[simp] theorem storeWord_eng (s : State) (a : Nat) (v : Word) : (s.storeWord a v).eng = s.eng := rfl
@[simp] theorem storeWord_ie (s : State) (a : Nat) (v : Word) : (s.storeWord a v).ie = s.ie := rfl
@[simp] theorem storeWord_cmd (s : State) (a : Nat) (v : Word) : (s.storeWord a v).cmd = s.cmd := rfl
@[simp] theorem storeWord_done (s : State) (a : Nat) (v : Word) : (s.storeWord a v).done = s.done := rfl
@[simp] theorem storeWord_haz (s : State) (a : Nat) (v : Word) : (s.storeWord a v).haz = s.haz := rfl
@[simp] theorem storeWord_errcode (s : State) (a : Nat) (v : Word) : (s.storeWord a v).errcode = s.errcode := rfl
@[simp] theorem storeWord_errInfo (s : State) (a : Nat) (v : Word) : (s.storeWord a v).errInfo = s.errInfo := rfl
@[simp] theorem storeWord_alen (s : State) (a : Nat) (v : Word) : (s.storeWord a v).alen = s.alen := rfl
@[simp] theorem storeWord_blen (s : State) (a : Nat) (v : Word) : (s.storeWord a v).blen = s.blen := rfl
@[simp] theorem storeWord_fcount (s : State) (a : Nat) (v : Word) : (s.storeWord a v).fcount = s.fcount := rfl
@[simp] theorem storeWord_outLen (s : State) (a : Nat) (v : Word) : (s.storeWord a v).outLen = s.outLen := rfl
@[simp] theorem storeWord_acc (s : State) (a : Nat) (v : Word) : (s.storeWord a v).acc = s.acc := rfl
@[simp] theorem storeWord_res0 (s : State) (a : Nat) (v : Word) : (s.storeWord a v).res0 = s.res0 := rfl
@[simp] theorem storeWord_res1 (s : State) (a : Nat) (v : Word) : (s.storeWord a v).res1 = s.res1 := rfl
@[simp] theorem storeWord_res2 (s : State) (a : Nat) (v : Word) : (s.storeWord a v).res2 = s.res2 := rfl
@[simp] theorem storeWord_mem (s : State) (a : Nat) (v : Word) : (s.storeWord a v).mem = Memory.storeWord s.mem a v := rfl
@[simp] theorem storeWord_ramDraw (s : State) (a : Nat) (v : Word) : (s.storeWord a v).ramDraw = s.ramDraw := rfl
@[simp] theorem storeWord_outDraw (s : State) (a : Nat) (v : Word) : (s.storeWord a v).outDraw = s.outDraw := rfl
@[simp] theorem storeWord_busDraw (s : State) (a : Nat) (v : Word) : (s.storeWord a v).busDraw = s.busDraw := rfl
@[simp] theorem storeWord_inputs (s : State) (a : Nat) (v : Word) : (s.storeWord a v).inputs = s.inputs := rfl
@[simp] theorem storeWord_answer (s : State) (a : Nat) (v : Word) : (s.storeWord a v).answer = s.answer := rfl

/-! ### `answerWith` -/

@[simp] theorem answerWith_params (w : Word) (s : State) : (answerWith w s).params = s.params := rfl
@[simp] theorem answerWith_rst (w : Word) (s : State) : (answerWith w s).rst = s.rst := rfl
@[simp] theorem answerWith_eng (w : Word) (s : State) : (answerWith w s).eng = s.eng := rfl
@[simp] theorem answerWith_ie (w : Word) (s : State) : (answerWith w s).ie = s.ie := rfl
@[simp] theorem answerWith_cmd (w : Word) (s : State) : (answerWith w s).cmd = s.cmd := rfl
@[simp] theorem answerWith_done (w : Word) (s : State) : (answerWith w s).done = s.done := rfl
@[simp] theorem answerWith_haz (w : Word) (s : State) : (answerWith w s).haz = s.haz := rfl
@[simp] theorem answerWith_errcode (w : Word) (s : State) : (answerWith w s).errcode = s.errcode := rfl
@[simp] theorem answerWith_errInfo (w : Word) (s : State) : (answerWith w s).errInfo = s.errInfo := rfl
@[simp] theorem answerWith_alen (w : Word) (s : State) : (answerWith w s).alen = s.alen := rfl
@[simp] theorem answerWith_blen (w : Word) (s : State) : (answerWith w s).blen = s.blen := rfl
@[simp] theorem answerWith_fcount (w : Word) (s : State) : (answerWith w s).fcount = s.fcount := rfl
@[simp] theorem answerWith_outLen (w : Word) (s : State) : (answerWith w s).outLen = s.outLen := rfl
@[simp] theorem answerWith_acc (w : Word) (s : State) : (answerWith w s).acc = s.acc := rfl
@[simp] theorem answerWith_res0 (w : Word) (s : State) : (answerWith w s).res0 = s.res0 := rfl
@[simp] theorem answerWith_res1 (w : Word) (s : State) : (answerWith w s).res1 = s.res1 := rfl
@[simp] theorem answerWith_res2 (w : Word) (s : State) : (answerWith w s).res2 = s.res2 := rfl
@[simp] theorem answerWith_mem (w : Word) (s : State) : (answerWith w s).mem = s.mem := rfl
@[simp] theorem answerWith_ramDraw (w : Word) (s : State) : (answerWith w s).ramDraw = s.ramDraw := rfl
@[simp] theorem answerWith_outDraw (w : Word) (s : State) : (answerWith w s).outDraw = s.outDraw := rfl
@[simp] theorem answerWith_busDraw (w : Word) (s : State) : (answerWith w s).busDraw = s.busDraw := rfl
@[simp] theorem answerWith_inputs (w : Word) (s : State) : (answerWith w s).inputs = s.inputs := rfl
@[simp] theorem answerWith_answer (w : Word) (s : State) : (answerWith w s).answer = some w := rfl

/-! ### `answerFree` -/

@[simp] theorem answerFree_params (mask : Word) (s : State) : (answerFree mask s).params = s.params := rfl
@[simp] theorem answerFree_rst (mask : Word) (s : State) : (answerFree mask s).rst = s.rst := rfl
@[simp] theorem answerFree_eng (mask : Word) (s : State) : (answerFree mask s).eng = s.eng := rfl
@[simp] theorem answerFree_ie (mask : Word) (s : State) : (answerFree mask s).ie = s.ie := rfl
@[simp] theorem answerFree_cmd (mask : Word) (s : State) : (answerFree mask s).cmd = s.cmd := rfl
@[simp] theorem answerFree_done (mask : Word) (s : State) : (answerFree mask s).done = s.done := rfl
@[simp] theorem answerFree_haz (mask : Word) (s : State) : (answerFree mask s).haz = s.haz := rfl
@[simp] theorem answerFree_errcode (mask : Word) (s : State) : (answerFree mask s).errcode = s.errcode := rfl
@[simp] theorem answerFree_errInfo (mask : Word) (s : State) : (answerFree mask s).errInfo = s.errInfo := rfl
@[simp] theorem answerFree_alen (mask : Word) (s : State) : (answerFree mask s).alen = s.alen := rfl
@[simp] theorem answerFree_blen (mask : Word) (s : State) : (answerFree mask s).blen = s.blen := rfl
@[simp] theorem answerFree_fcount (mask : Word) (s : State) : (answerFree mask s).fcount = s.fcount := rfl
@[simp] theorem answerFree_outLen (mask : Word) (s : State) : (answerFree mask s).outLen = s.outLen := rfl
@[simp] theorem answerFree_acc (mask : Word) (s : State) : (answerFree mask s).acc = s.acc := rfl
@[simp] theorem answerFree_res0 (mask : Word) (s : State) : (answerFree mask s).res0 = s.res0 := rfl
@[simp] theorem answerFree_res1 (mask : Word) (s : State) : (answerFree mask s).res1 = s.res1 := rfl
@[simp] theorem answerFree_res2 (mask : Word) (s : State) : (answerFree mask s).res2 = s.res2 := rfl
@[simp] theorem answerFree_mem (mask : Word) (s : State) : (answerFree mask s).mem = s.mem := rfl
@[simp] theorem answerFree_ramDraw (mask : Word) (s : State) : (answerFree mask s).ramDraw = s.ramDraw := rfl
@[simp] theorem answerFree_outDraw (mask : Word) (s : State) : (answerFree mask s).outDraw = s.outDraw := rfl
@[simp] theorem answerFree_busDraw (mask : Word) (s : State) : (answerFree mask s).busDraw = s.busDraw + 1 := rfl
@[simp] theorem answerFree_inputs (mask : Word) (s : State) : (answerFree mask s).inputs = s.inputs := rfl
@[simp] theorem answerFree_answer (mask : Word) (s : State) : (answerFree mask s).answer = some (Config.busWord s.busDraw &&& mask) := rfl

/-! ### `clearStatus` -/

@[simp] theorem clearStatus_params (s : State) (w : Word) : (s.clearStatus w).params = s.params := rfl
@[simp] theorem clearStatus_rst (s : State) (w : Word) : (s.clearStatus w).rst = s.rst := rfl
@[simp] theorem clearStatus_eng (s : State) (w : Word) : (s.clearStatus w).eng = s.eng := rfl
@[simp] theorem clearStatus_ie (s : State) (w : Word) : (s.clearStatus w).ie = s.ie := rfl
@[simp] theorem clearStatus_cmd (s : State) (w : Word) : (s.clearStatus w).cmd = s.cmd := rfl
@[simp] theorem clearStatus_done (s : State) (w : Word) : (s.clearStatus w).done = (s.done && !w.getLsbD 1) := rfl
@[simp] theorem clearStatus_haz (s : State) (w : Word) : (s.clearStatus w).haz = (s.haz && !w.getLsbD 3) := rfl
@[simp] theorem clearStatus_errcode (s : State) (w : Word) : (s.clearStatus w).errcode = s.errcode := rfl
@[simp] theorem clearStatus_errInfo (s : State) (w : Word) : (s.clearStatus w).errInfo = s.errInfo := rfl
@[simp] theorem clearStatus_alen (s : State) (w : Word) : (s.clearStatus w).alen = s.alen := rfl
@[simp] theorem clearStatus_blen (s : State) (w : Word) : (s.clearStatus w).blen = s.blen := rfl
@[simp] theorem clearStatus_fcount (s : State) (w : Word) : (s.clearStatus w).fcount = s.fcount := rfl
@[simp] theorem clearStatus_outLen (s : State) (w : Word) : (s.clearStatus w).outLen = s.outLen := rfl
@[simp] theorem clearStatus_acc (s : State) (w : Word) : (s.clearStatus w).acc = s.acc := rfl
@[simp] theorem clearStatus_res0 (s : State) (w : Word) : (s.clearStatus w).res0 = s.res0 := rfl
@[simp] theorem clearStatus_res1 (s : State) (w : Word) : (s.clearStatus w).res1 = s.res1 := rfl
@[simp] theorem clearStatus_res2 (s : State) (w : Word) : (s.clearStatus w).res2 = s.res2 := rfl
@[simp] theorem clearStatus_mem (s : State) (w : Word) : (s.clearStatus w).mem = s.mem := rfl
@[simp] theorem clearStatus_ramDraw (s : State) (w : Word) : (s.clearStatus w).ramDraw = s.ramDraw := rfl
@[simp] theorem clearStatus_outDraw (s : State) (w : Word) : (s.clearStatus w).outDraw = s.outDraw := rfl
@[simp] theorem clearStatus_busDraw (s : State) (w : Word) : (s.clearStatus w).busDraw = s.busDraw := rfl
@[simp] theorem clearStatus_inputs (s : State) (w : Word) : (s.clearStatus w).inputs = s.inputs := rfl
@[simp] theorem clearStatus_answer (s : State) (w : Word) : (s.clearStatus w).answer = s.answer := rfl

end Sys2Proof.Machine
end

