-- ==== Sys2Proof/Laws/Memory.lean ====
section
/-! SUPPORT. The laws of memory: every operation keeps the canonical form, a read after a write gives the value written,
and a write leaves every other byte alone. -/

namespace Sys2Proof.Machine

/-! ### The canonical form -/

/-- A canonical memory with a first cell: that cell lies below the rest, which is canonical. -/
theorem Memory.wf_cons (c : Host.Cell) (m : List Host.Cell) :
    Memory.wf (c :: m) = true ↔ (∀ d ∈ m, c.1 < d.1) ∧ Memory.wf m = true := by
  induction m generalizing c with
  | nil => simp [Memory.wf]
  | cons d rest ih =>
    obtain ⟨a, v⟩ := c
    obtain ⟨b, w⟩ := d
    have hd := ih (b, w)
    simp only [Memory.wf, Bool.and_eq_true, decide_eq_true_eq, List.mem_cons, forall_eq_or_imp]
    constructor
    · rintro ⟨hab, hw⟩
      exact ⟨⟨hab, fun x hx => lt_trans hab ((hd.1 hw).1 x hx)⟩, hw⟩
    · rintro ⟨⟨hab, -⟩, hw⟩
      exact ⟨hab, hw⟩

/-- Canonical means that offsets strictly rise. -/
theorem Memory.wf_iff_pairwise (m : List Host.Cell) :
    Memory.wf m = true ↔ m.Pairwise (fun c d => c.1 < d.1) := by
  induction m with
  | nil => simp [Memory.wf]
  | cons c rest ih => rw [Memory.wf_cons, ih, List.pairwise_cons]

/-- What a store can leave in memory. -/
theorem Memory.mem_store {m : List Host.Cell} {a : Nat} {b : Byte} {c : Host.Cell}
    (h : c ∈ Memory.store m a b) : c = (a, b) ∨ c ∈ m := by
  induction m with
  | nil => simpa [Memory.store] using h
  | cons d rest ih =>
    obtain ⟨k, v⟩ := d
    simp only [Memory.store] at h
    split at h
    · simpa using h
    · split at h
      · simp only [List.mem_cons] at h ⊢
        tauto
      · simp only [List.mem_cons] at h ⊢
        rcases h with h | h
        · exact .inr (.inl h)
        · rcases ih h with h | h
          · exact .inl h
          · exact .inr (.inr h)

/-- A store keeps the canonical form. -/
theorem Memory.wf_store {m : List Host.Cell} (h : Memory.wf m = true) (a : Nat) (b : Byte) :
    Memory.wf (Memory.store m a b) = true := by
  induction m with
  | nil => simp [Memory.store, Memory.wf]
  | cons d rest ih =>
    obtain ⟨k, v⟩ := d
    obtain ⟨hk, hr⟩ := (Memory.wf_cons _ _).1 h
    simp only [Memory.store]
    split
    · rename_i hak
      refine (Memory.wf_cons _ _).2 ⟨fun c hc => ?_, h⟩
      rcases List.mem_cons.1 hc with rfl | hc
      · exact hak
      · exact lt_trans hak (hk c hc)
    · rename_i hak
      split
      · rename_i heq
        subst heq
        exact (Memory.wf_cons _ _).2 ⟨hk, hr⟩
      · rename_i hne
        refine (Memory.wf_cons _ _).2 ⟨fun c hc => ?_, ih hr⟩
        rcases Memory.mem_store hc with rfl | hc
        · show k < a
          omega
        · exact hk c hc

/-- A word store keeps the canonical form. -/
theorem Memory.wf_storeWord {m : List Host.Cell} (h : Memory.wf m = true) (a : Nat) (v : Word) :
    Memory.wf (Memory.storeWord m a v) = true :=
  Memory.wf_store (Memory.wf_store (Memory.wf_store (Memory.wf_store h _ _) _ _) _ _) _ _

/-- Keeping only some cells keeps the canonical form. -/
theorem Memory.wf_filter {m : List Host.Cell} (h : Memory.wf m = true) (p : Host.Cell → Bool) :
    Memory.wf (m.filter p) = true :=
  (Memory.wf_iff_pairwise _).2 (((Memory.wf_iff_pairwise _).1 h).filter p)

/-- Dropping the cells from an offset on keeps the canonical form. -/
theorem Memory.wf_below {m : List Host.Cell} (h : Memory.wf m = true) (a : Nat) :
    Memory.wf (Memory.below m a) = true := Memory.wf_filter h _

/-- The cells left below an offset. -/
theorem Memory.mem_below {m : List Host.Cell} {a : Nat} {c : Host.Cell} :
    c ∈ Memory.below m a ↔ c ∈ m ∧ c.1 < a := by simp [Memory.below]

/-- Consecutive cells lie from their first offset on, and before their end. -/
theorem Memory.mem_cellsFrom {a : Nat} {bs : List Byte} {c : Host.Cell} (h : c ∈ Memory.cellsFrom a bs) :
    a ≤ c.1 ∧ c.1 < a + bs.length := by
  induction bs generalizing a with
  | nil => simp [Memory.cellsFrom] at h
  | cons b rest ih =>
    simp only [Memory.cellsFrom, List.mem_cons, List.length_cons] at h ⊢
    rcases h with rfl | h
    · constructor <;> simp
    · have := ih h
      omega

/-- Consecutive cells are canonical. -/
theorem Memory.wf_cellsFrom (a : Nat) (bs : List Byte) : Memory.wf (Memory.cellsFrom a bs) = true := by
  induction bs generalizing a with
  | nil => rfl
  | cons b rest ih =>
    refine (Memory.wf_cons _ _).2 ⟨fun c hc => ?_, ih _⟩
    have := (Memory.mem_cellsFrom hc).1
    show a < c.1
    omega

/-- OutWrite's memory is canonical. -/
theorem Memory.wf_below_append {m : List Host.Cell} (h : Memory.wf m = true) (a : Nat) (bs : List Byte) :
    Memory.wf (Memory.below m a ++ Memory.cellsFrom a bs) = true := by
  rw [Memory.wf_iff_pairwise, List.pairwise_append]
  refine ⟨(Memory.wf_iff_pairwise _).1 (Memory.wf_below h a),
    (Memory.wf_iff_pairwise _).1 (Memory.wf_cellsFrom a bs), fun c hc d hd => ?_⟩
  exact lt_of_lt_of_le (Memory.mem_below.1 hc).2 (Memory.mem_cellsFrom hd).1

/-! ### Reading -/

/-- Read after a store: the byte stored at its offset, the old byte elsewhere. -/
theorem Memory.lookup_store (m : List Host.Cell) (a : Nat) (b : Byte) (c : Nat) :
    Memory.lookup (Memory.store m a b) c = if c = a then some b else Memory.lookup m c := by
  induction m with
  | nil => simp [Memory.store, Memory.lookup, eq_comm]
  | cons d rest ih =>
    obtain ⟨k, v⟩ := d
    simp only [Memory.store]
    split
    · simp only [Memory.lookup, eq_comm]
    · split
      · rename_i heq
        subst heq
        by_cases hc : c = a
        · subst hc; simp [Memory.lookup]
        · simp [Memory.lookup, hc, Ne.symm hc]
      · rename_i hne
        simp only [Memory.lookup, ih]
        by_cases hkc : k = c
        · subst hkc
          have : ¬ k = a := fun h => hne h.symm
          simp [this]
        · simp [hkc]

/-- A lookup in cells that all lie elsewhere finds nothing. -/
theorem Memory.lookup_eq_none {m : List Host.Cell} {a : Nat} (h : ∀ c ∈ m, c.1 ≠ a) : Memory.lookup m a = none := by
  induction m with
  | nil => rfl
  | cons d rest ih =>
    obtain ⟨k, v⟩ := d
    have hk : k ≠ a := h (k, v) (by simp)
    simp only [Memory.lookup, if_neg hk]
    exact ih fun c hc => h c (by simp [hc])

/-- A lookup in two lists of cells tries the first one first. -/
theorem Memory.lookup_append (m n : List Host.Cell) (a : Nat) :
    Memory.lookup (m ++ n) a = (Memory.lookup m a).or (Memory.lookup n a) := by
  induction m with
  | nil => simp [Memory.lookup]
  | cons d rest ih =>
    obtain ⟨k, v⟩ := d
    simp only [List.cons_append, Memory.lookup, ih]
    split <;> simp

/-- Below the offset, a lookup sees what it saw; from it on, nothing. -/
theorem Memory.lookup_below (m : List Host.Cell) (a c : Nat) :
    Memory.lookup (Memory.below m a) c = if c < a then Memory.lookup m c else none := by
  split
  · rename_i hca
    induction m with
    | nil => rfl
    | cons d rest ih =>
      obtain ⟨k, v⟩ := d
      simp only [Memory.below] at ih ⊢
      by_cases hk : k < a
      · simp [hk, Memory.lookup, ih]
      · have : k ≠ c := by omega
        simp [hk, Memory.lookup, this, ih]
  · rename_i hca
    exact Memory.lookup_eq_none fun c' hc' h => hca (h ▸ (Memory.mem_below.1 hc').2)

/-- Consecutive cells hold the sequence. -/
theorem Memory.lookup_cellsFrom (a : Nat) (bs : List Byte) (i : Nat) :
    Memory.lookup (Memory.cellsFrom a bs) (a + i) = bs[i]? := by
  induction bs generalizing a i with
  | nil => simp [Memory.cellsFrom, Memory.lookup]
  | cons b rest ih =>
    cases i with
    | zero => simp [Memory.cellsFrom, Memory.lookup]
    | succ i =>
      have := ih (a + 1) i
      simp only [Memory.cellsFrom, Memory.lookup, List.getElem?_cons_succ]
      rw [if_neg (by omega), ← this]
      congr 1
      omega

/-- Consecutive cells hold nothing before their first offset. -/
theorem Memory.lookup_cellsFrom_before {a c : Nat} (h : c < a) (bs : List Byte) :
    Memory.lookup (Memory.cellsFrom a bs) c = none :=
  Memory.lookup_eq_none fun d hd => by
    have := (Memory.mem_cellsFrom hd).1
    omega

/-- What a lookup finds is listed. -/
theorem Memory.mem_of_lookup {m : List Host.Cell} {a : Nat} {b : Byte} (h : Memory.lookup m a = some b) :
    (a, b) ∈ m := by
  induction m with
  | nil => simp [Memory.lookup] at h
  | cons d rest ih =>
    obtain ⟨k, v⟩ := d
    simp only [Memory.lookup] at h
    split at h
    · rename_i hk
      subst hk
      simp_all
    · exact List.mem_cons_of_mem _ (ih h)

/-! ### The bytes of a state -/

/-- Reading one byte depends on memory and on the two draws only. -/
theorem State.byteAt_congr {s t : State} (hm : t.mem = s.mem) (hr : t.ramDraw = s.ramDraw)
    (ho : t.outDraw = s.outDraw) (a : Nat) : t.byteAt a = s.byteAt a := by
  simp [State.byteAt, hm, hr, ho]

/-- A byte below OUTBUF does not depend on what stands in OUTBUF. -/
theorem State.byteAt_of_lookup {s t : State} {a : Nat} (ha : a < outBase)
    (hm : Memory.lookup t.mem a = Memory.lookup s.mem a) (hr : t.ramDraw = s.ramDraw) : t.byteAt a = s.byteAt a := by
  simp [State.byteAt, hm, hr, ha]

/-- A word store changes the four bytes of its word. -/
theorem State.byteAt_storeWord (s : State) (a : Nat) (v : Word) (c : Nat) :
    (s.storeWord a v).byteAt c =
      if c = a + 3 then v.extractLsb' 24 8 else if c = a + 2 then v.extractLsb' 16 8
      else if c = a + 1 then v.extractLsb' 8 8 else if c = a then v.extractLsb' 0 8 else s.byteAt c := by
  simp only [State.byteAt, State.storeWord, Memory.storeWord, Memory.lookup_store]
  split_ifs <;> rfl

/-- The four bytes of a word make the word. -/
theorem wordOfBytes_extract (v : Word) :
    wordOfBytes (v.extractLsb' 0 8) (v.extractLsb' 8 8) (v.extractLsb' 16 8) (v.extractLsb' 24 8) = v := by
  apply BitVec.eq_of_getLsbD_eq
  intro i hi
  unfold wordOfBytes
  rw [BitVec.getLsbD_append, BitVec.getLsbD_append, BitVec.getLsbD_append]
  simp only [BitVec.getLsbD_extractLsb']
  split_ifs with h0 h1 h2
  · rw [decide_eq_true h0, Bool.true_and]; congr 1; omega
  · rw [decide_eq_true h1, Bool.true_and]; congr 1; omega
  · rw [decide_eq_true h2, Bool.true_and]; congr 1; omega
  · rw [decide_eq_true (by omega), Bool.true_and]; congr 1; omega

/-- A word store followed by a read of the word gives the word. -/
theorem State.wordAt_storeWord (s : State) (a : Nat) (v : Word) : (s.storeWord a v).wordAt a = v := by
  simp only [State.wordAt, State.byteAt_storeWord, show ¬ a = a + 3 by omega, show ¬ a = a + 2 by omega,
    show ¬ a = a + 1 by omega, show ¬ a + 1 = a + 3 by omega, show ¬ a + 1 = a + 2 by omega,
    show ¬ a + 2 = a + 3 by omega, if_false, if_true]
  exact wordOfBytes_extract v

/-- Making OUTBUF unspecified leaves INBUF and DESC alone. -/
theorem State.byteAt_spoilOut (s : State) {a : Nat} (ha : a < outBase) : s.spoilOut.byteAt a = s.byteAt a :=
  State.byteAt_of_lookup ha (by simp [Memory.lookup_below, ha]) rfl

/-- OUTBUF made unspecified reads as its free bytes. -/
theorem State.byteAt_spoilOut_out (s : State) {a : Nat} (ha : outBase ≤ a) :
    s.spoilOut.byteAt a = Config.outByte (s.outDraw + 1) a := by
  simp [State.byteAt, Memory.lookup_below, Nat.not_lt.2 ha]

/-- OutWrite leaves INBUF and DESC alone. -/
theorem State.byteAt_outWrite (s : State) (x : List Byte) {a : Nat} (ha : a < outBase) :
    (s.outWrite x).byteAt a = s.byteAt a := by
  refine State.byteAt_of_lookup ha ?_ rfl
  simp [Memory.lookup_append, Memory.lookup_below, ha, Memory.lookup_cellsFrom_before ha]

/-- OutWrite puts its bytes at the start of OUTBUF. -/
theorem State.outByteAt_outWrite (s : State) (x : List Byte) {i : Nat} (hi : i < x.length) :
    (s.outWrite x).outByteAt i = x[i] := by
  simp [State.outByteAt, State.byteAt, Memory.lookup_append, Memory.lookup_below, Memory.lookup_cellsFrom, hi]

/-- OutWrite leaves the bytes behind its own unspecified. -/
theorem State.outByteAt_outWrite_rest (s : State) (x : List Byte) {i : Nat} (hi : x.length ≤ i) :
    (s.outWrite x).outByteAt i = Config.outByte (s.outDraw + 1) (outBase + i) := by
  simp [State.outByteAt, State.byteAt, Memory.lookup_append, Memory.lookup_below, Memory.lookup_cellsFrom, hi]

/-- `InRead` gives as many bytes as it is asked for. -/
@[simp] theorem State.length_inRead (s : State) (off n : Nat) : (s.inRead off n).length = n := by
  simp [State.inRead]

/-- `InRead` gives the bytes of INBUF in order. -/
@[simp] theorem State.getElem_inRead (s : State) (off n : Nat) {i : Nat} (hi : i < (s.inRead off n).length) :
    (s.inRead off n)[i] = s.inByte (off + i) := by
  simp [State.inRead]

/-- The prefix operand has ALEN bytes. -/
@[simp] theorem State.length_hrpBytes (s : State) : s.hrpBytes.length = s.alen.toNat := by simp [State.hrpBytes]

/-- The operand behind the prefix has BLEN bytes. -/
@[simp] theorem State.length_tailBytes (s : State) : s.tailBytes.length = s.blen.toNat := by simp [State.tailBytes]

/-- The text operand has BLEN bytes. -/
@[simp] theorem State.length_textBytes (s : State) : s.textBytes.length = s.blen.toNat := by simp [State.textBytes]

/-- INBUF lies below OUTBUF when the parameters are legal, so its bytes do not depend on OUTBUF. -/
theorem State.inRead_congr {s t : State} (h : ∀ a, a < outBase → t.byteAt a = s.byteAt a) (off n : Nat)
    (hn : inBase + off + n ≤ outBase) : t.inRead off n = s.inRead off n := by
  apply List.ext_getElem (by simp)
  intro i h1 h2
  simp only [State.length_inRead] at h1 h2
  simp only [State.getElem_inRead, State.inByte]
  exact h _ (by omega)

end Sys2Proof.Machine
end

