-- ==== Sys2Proof/Laws/Ops.lean ====
section
/-! SUPPORT. One lemma per shared operation that says everything it can do: the sequencing of checks, the operands, the two
ways a command ends, and what each end leaves alone. -/

namespace Sys2Proof.Machine

/-! ### Sequences of checks -/

/-- A sequence of checks succeeds when each part does. -/
theorem bind_eq_ok {ε α β : Type} {x : Except ε α} {f : α → Except ε β} {b : β} :
    (x >>= f) = .ok b ↔ ∃ a, x = .ok a ∧ f a = .ok b := by
  cases x <;> simp [bind, Except.bind]

/-- A sequence of checks fails at its first part that fails. -/
theorem bind_eq_error {ε α β : Type} {x : Except ε α} {f : α → Except ε β} {e : ε} :
    (x >>= f) = .error e ↔ x = .error e ∨ ∃ a, x = .ok a ∧ f a = .error e := by
  cases x <;> simp [bind, Except.bind]

/-- The end of a sequence of checks. -/
theorem pure_eq_ok {ε α : Type} {a b : α} : (pure a : Except ε α) = .ok b ↔ a = b := by
  simp [pure, Except.pure]

/-- The end of a sequence of checks is no failure. -/
theorem pure_ne_error {ε α : Type} {a : α} {e : ε} : (pure a : Except ε α) ≠ .error e := by
  simp [pure, Except.pure]

/-- A check that holds goes on. -/
theorem require_eq_ok {c : Bool} {e : CmdError} {u : Unit} : require c e = .ok u ↔ c = true := by
  cases c <;> simp [require]

/-- A check that does not hold fails with its error. -/
theorem require_eq_error {c : Bool} {e e' : CmdError} : require c e = .error e' ↔ c = false ∧ e = e' := by
  cases c <;> simp [require]

/-- A base-32 result is carried on. -/
theorem liftCodec_eq_ok {α : Type} {r : Except CodecFail α} {frag field : Nat} {a : α} :
    liftCodec r frag field = .ok a ↔ r = .ok a := by
  cases r <;> simp [liftCodec]

/-- A base-32 failure is re-raised with FRAG and FIELD. -/
theorem liftCodec_eq_error {α : Type} {r : Except CodecFail α} {frag field : Nat} {e : CmdError} :
    liftCodec r frag field = .error e ↔ ∃ f, r = .error f ∧ e = f.at frag field := by
  cases r <;> simp [liftCodec, eq_comm]

/-! ### Argument checks -/

/-- `BLEN ≤ IN_BYTES`. -/
theorem checkBlen_eq_ok {s : State} {u : Unit} : checkBlen s = .ok u ↔ s.blen.toNat ≤ s.params.inBytes := by
  simp [checkBlen, require_eq_ok]

/-- `ALEN ≤ IN_BYTES`. -/
theorem checkAlen_eq_ok {s : State} {u : Unit} : checkAlen s = .ok u ↔ s.alen.toNat ≤ s.params.inBytes := by
  simp [checkAlen, require_eq_ok]

/-- `ALEN + BLEN ≤ IN_BYTES`. -/
theorem checkBoth_eq_ok {s : State} {u : Unit} :
    checkBoth s = .ok u ↔ s.alen.toNat + s.blen.toNat ≤ s.params.inBytes := by
  simp [checkBoth, require_eq_ok]

/-- `FCOUNT ≤ MAX_FRAGS`. -/
theorem checkCount_eq_ok {s : State} {u : Unit} : checkCount s = .ok u ↔ s.fcount.toNat ≤ s.params.maxFrags := by
  simp [checkCount, require_eq_ok]

/-- The output fits OUTBUF. -/
theorem checkOut_eq_ok {s : State} {x : List Byte} {u : Unit} : checkOut s x = .ok u ↔ x.length ≤ s.params.outBytes := by
  simp [checkOut, require_eq_ok]

/-- The descriptor checks pass when each descriptor's does. -/
theorem checkDescs_eq_ok {s : State} {k n : Nat} {u : Unit} :
    checkDescs s k n = .ok u ↔ ∀ j, k ≤ j → j < k + n → s.descOff j + s.descLen j ≤ s.params.inBytes := by
  induction n generalizing k with
  | zero =>
    simp only [checkDescs, true_iff]
    intro j h1 h2
    omega
  | succ n ih =>
    simp only [checkDescs]
    split
    · rename_i hk
      rw [ih]
      constructor
      · intro h j h1 h2
        by_cases hj : j = k
        · exact hj ▸ hk
        · exact h j (by omega) (by omega)
      · exact fun h j h1 h2 => h j (by omega) (by omega)
    · rename_i hk
      simp only [reduceCtorEq, false_iff]
      exact fun h => hk (h k le_rfl (by omega))

/-- A symbol operand is read when every byte of it is a symbol. -/
theorem symbolOperand_eq_ok {i : Nat} {bs : List Byte} {xs : List Symbol} :
    symbolOperand i bs = .ok xs ↔ AllSymbols bs ∧ xs = asSymbols bs := by
  induction bs generalizing i xs with
  | nil => simp [symbolOperand, AllSymbols, asSymbols, eq_comm]
  | cons b rest ih =>
    simp only [symbolOperand]
    split
    · rename_i hb
      simp only [reduceCtorEq, AllSymbols, List.mem_cons, forall_eq_or_imp, false_iff]
      omega
    · rename_i hb
      cases hr : symbolOperand (i + 1) rest with
      | error e =>
        simp only [reduceCtorEq, false_iff]
        rintro ⟨hall, -⟩
        have := (ih (i := i + 1) (xs := asSymbols rest)).2 ⟨fun c hc => hall c (by simp [hc]), rfl⟩
        simp [hr] at this
      | ok ys =>
        obtain ⟨hall, rfl⟩ := ih.1 hr
        simp only [Except.ok.injEq, AllSymbols, List.mem_cons, forall_eq_or_imp, asSymbols, List.map_cons,
          eq_comm (a := xs)]
        exact ⟨fun h => ⟨⟨by omega, hall⟩, h⟩, fun h => h.2⟩

/-! ### The two ends of a command -/

/-- A command whose work succeeds. -/
@[simp] theorem settle_ok (s u : State) : settle s (.ok u) = .next (complete u) := rfl

/-- A command whose work fails. -/
@[simp] theorem settle_error (s : State) (e : CmdError) : settle s (.error e) = .next (raiseError e s) := rfl

/-- What the end of a command can be. -/
theorem settle_eq_next {s t : State} {r : Except CmdError State} :
    settle s r = .next t ↔ (∃ u, r = .ok u ∧ t = complete u) ∨ ∃ e, r = .error e ∧ t = raiseError e s := by
  cases r <;> simp [settle, eq_comm]

/-- A command always answers a next state, IDLE and DONE. -/
theorem settle_next (s : State) (r : Except CmdError State) :
    ∃ t, settle s r = .next t ∧ t.eng = .idle ∧ t.done = true := by
  cases r <;> simp

/-- No error number is 0. -/
theorem errorNumber_ne_zero (c : ErrorCode) : errorNumber c ≠ 0 := by cases c <;> decide

/-- Every error number is one that the block produces. -/
theorem errorNumber_mem (c : ErrorCode) : errorNumber c ∈ producedCodes := by cases c <;> decide

/-- The bytes below OUTBUF after an error. -/
theorem byteAt_raiseError (e : CmdError) (s : State) {a : Nat} (ha : a < outBase) :
    (raiseError e s).byteAt a = s.byteAt a := by
  rw [← State.byteAt_spoilOut s ha]
  exact State.byteAt_congr rfl rfl rfl a

/-- Completion changes no byte. -/
theorem byteAt_complete (s : State) (a : Nat) : (complete s).byteAt a = s.byteAt a :=
  State.byteAt_congr rfl rfl rfl a

/-- An error keeps everything that no command writes. -/
theorem commandFrame_raiseError (e : CmdError) (s : State) : CommandFrame s (raiseError e s) where
  params := rfl
  rst := rfl
  ie := rfl
  cmd := rfl
  haz := rfl
  alen := rfl
  blen := rfl
  fcount := rfl
  ramDraw := rfl
  busDraw := rfl
  inputs := rfl
  answer := rfl
  bytes := fun _ ha => byteAt_raiseError e s ha

/-- Completion keeps the frame of a command's work. -/
theorem CommandFrame.complete {s u : State} (h : CommandFrame s u) : CommandFrame s (complete u) where
  params := h.params
  rst := h.rst
  ie := h.ie
  cmd := h.cmd
  haz := h.haz
  alen := h.alen
  blen := h.blen
  fcount := h.fcount
  ramDraw := h.ramDraw
  busDraw := h.busDraw
  inputs := h.inputs
  answer := h.answer
  bytes := fun a ha => (byteAt_complete u a).trans (h.bytes a ha)

/-- A command that changes nothing keeps the frame. -/
theorem CommandFrame.refl (s : State) : CommandFrame s s :=
  ⟨rfl, rfl, rfl, rfl, rfl, rfl, rfl, rfl, rfl, rfl, rfl, rfl, fun _ _ => rfl⟩

/-- Writing ACC and the result words over an unspecified OUTBUF keeps the frame. -/
theorem commandFrame_spoilOut (s : State) (a : Acc) (r0 r1 r2 : Word) :
    CommandFrame s { s.spoilOut with acc := a, res0 := r0, res1 := r1, res2 := r2 } where
  params := rfl
  rst := rfl
  ie := rfl
  cmd := rfl
  haz := rfl
  alen := rfl
  blen := rfl
  fcount := rfl
  ramDraw := rfl
  busDraw := rfl
  inputs := rfl
  answer := rfl
  bytes := fun a ha => (State.byteAt_congr rfl rfl rfl a).trans (State.byteAt_spoilOut s ha)

/-- Writing the output and the result words keeps the frame. -/
theorem commandFrame_outWrite (s : State) (x : List Byte) (r0 r1 r2 : Word) :
    CommandFrame s ((s.outWrite x).results r0 r1 r2) where
  params := rfl
  rst := rfl
  ie := rfl
  cmd := rfl
  haz := rfl
  alen := rfl
  blen := rfl
  fcount := rfl
  ramDraw := rfl
  busDraw := rfl
  inputs := rfl
  answer := rfl
  bytes := fun a ha => (State.byteAt_congr rfl rfl rfl a).trans (State.byteAt_outWrite s x ha)

/-- The work of a successful command, whatever the command: nothing, ACC and result words with OUTBUF unspecified, or an
output that fits OUTBUF with result words. -/
inductive Work (s : State) : State → Prop where
  /-- NOP. -/
  | nothing : Work s s
  /-- A command without output. -/
  | registers (a : Acc) (r0 r1 r2 : Word) : Work s { s.spoilOut with acc := a, res0 := r0, res1 := r1, res2 := r2 }
  /-- A command with output. -/
  | output (x : List Byte) (r0 r1 r2 : Word) (h : x.length ≤ max 6 s.params.outBytes) :
      Work s ((s.outWrite x).results r0 r1 r2)

/-- The work of a command keeps the frame. -/
theorem Work.frame {s u : State} (h : Work s u) : CommandFrame s u := by
  cases h with
  | nothing => exact CommandFrame.refl s
  | registers a r0 r1 r2 => exact commandFrame_spoilOut s a r0 r1 r2
  | output x r0 r1 r2 _ => exact commandFrame_outWrite s x r0 r1 r2

/-! ### The host's syntax -/

/-- A DESC line whose operands fit its fields writes exactly them (30_encoding.md R72, R79). -/
theorem descOperand_fields {off len : Nat} (ho : off < 2 ^ 16) (hl : len < 2 ^ 16) :
    ((descOperand off len).extractLsb' 0 16).toNat = off ∧ ((descOperand off len).extractLsb' 16 16).toNat = len := by
  have hor : (len * 2 ^ 16) ||| off = len * 2 ^ 16 + off := by
    rw [Nat.mul_comm, Nat.two_pow_add_eq_or_of_lt ho]
  have h : (descOperand off len).toNat = len * 2 ^ 16 + off := by
    have e1 : len % 2 ^ 32 = len := Nat.mod_eq_of_lt (by omega)
    have e2 : off % 2 ^ 32 = off := Nat.mod_eq_of_lt (by omega)
    have e3 : len * 2 ^ 16 % 2 ^ 32 = len * 2 ^ 16 := Nat.mod_eq_of_lt (by omega)
    simp only [descOperand, BitVec.toNat_or, BitVec.toNat_shiftLeft, BitVec.toNat_ofNat, Nat.shiftLeft_eq, e1, e2, e3, hor]
  simp only [BitVec.extractLsb'_toNat, h, Nat.shiftRight_eq_div_pow]
  omega

end Sys2Proof.Machine
end

