-- ==== Sys2Proof/Laws/Commands.lean ====
section
/-! SUPPORT. One lemma per meaning: if it answers a next state, that is an error completion, or the completion of exactly
the work its rule gives it, and then every check of the rule held. The last lemma says the same, more coarsely, of every
command at once. -/

namespace Sys2Proof.Machine

/-- NOP always completes. -/
theorem execNop_eq (s : State) : execNop s = .next (complete s) := rfl

/-- POLY.INIT always completes. -/
theorem execPolyInit_eq (s : State) : execPolyInit s = .next (complete { s.spoilOut with acc := 1 }) := rfl

/-- POLY.STEP always completes. -/
theorem execPolyStep_eq (n : Nat) (s : State) :
    execPolyStep n s = .next (complete { s.spoilOut with acc := polyStep s.acc (BitVec.ofNat 5 n) }) := rfl

/-- What POLY.RUN can do. -/
theorem execPolyRun_cases {s t : State} (h : execPolyRun s = .next t) :
    (∃ e, t = raiseError e s) ∨
    (s.blen.toNat ≤ s.params.inBytes ∧ AllSymbols s.textBytes ∧
      t = complete { s.spoilOut with acc := polyFold s.acc (asSymbols s.textBytes) }) := by
  rcases settle_eq_next.1 h with ⟨u, hu, rfl⟩ | ⟨e, -, rfl⟩
  · simp only [bind_eq_ok, pure_eq_ok, checkBlen_eq_ok, symbolOperand_eq_ok] at hu
    obtain ⟨-, hb, _, ⟨hs, rfl⟩, rfl⟩ := hu
    exact .inr ⟨hb, hs, rfl⟩
  · exact .inl ⟨e, rfl⟩

/-- What HRP.EXPAND can do. -/
theorem execHrpExpand_cases {s t : State} (h : execHrpExpand s = .next t) :
    (∃ e, t = raiseError e s) ∨
    (s.alen.toNat ≤ s.params.inBytes ∧ (symbolBytes (expand s.hrpBytes)).length ≤ s.params.outBytes ∧
      t = complete (s.outWrite (symbolBytes (expand s.hrpBytes)))) := by
  rcases settle_eq_next.1 h with ⟨u, hu, rfl⟩ | ⟨e, -, rfl⟩
  · simp only [bind_eq_ok, pure_eq_ok, checkAlen_eq_ok, checkOut_eq_ok] at hu
    obtain ⟨-, ha, -, ho, rfl⟩ := hu
    exact .inr ⟨ha, ho, rfl⟩
  · exact .inl ⟨e, rfl⟩

/-- What CHK_CREATE can do. -/
theorem chkCreate_cases {v : Variant} {s t : State} (h : chkCreate v s = .next t) :
    (∃ e, t = raiseError e s) ∨
    (s.alen.toNat + s.blen.toNat ≤ s.params.inBytes ∧ AllSymbols s.tailBytes ∧
      t = complete ((s.outWrite (symbolBytes (createChecksum s.hrpBytes (asSymbols s.tailBytes) v).2)).results
        (accWord (createChecksum s.hrpBytes (asSymbols s.tailBytes) v).1)
        (accWord ((createChecksum s.hrpBytes (asSymbols s.tailBytes) v).1 ^^^ target v)) s.res2)) := by
  rcases settle_eq_next.1 h with ⟨u, hu, rfl⟩ | ⟨e, -, rfl⟩
  · simp only [bind_eq_ok, pure_eq_ok, checkBoth_eq_ok, symbolOperand_eq_ok] at hu
    obtain ⟨-, hb, _, ⟨hs, rfl⟩, rfl⟩ := hu
    exact .inr ⟨hb, hs, rfl⟩
  · exact .inl ⟨e, rfl⟩

/-- What CHK_VERIFY can do. -/
theorem chkVerify_cases {v : Variant} {s t : State} (h : chkVerify v s = .next t) :
    (∃ e, t = raiseError e s) ∨
    (s.alen.toNat + s.blen.toNat ≤ s.params.inBytes ∧ AllSymbols s.tailBytes ∧
      t = complete (s.spoilOut.results
        (if (verifyChecksum s.hrpBytes (asSymbols s.tailBytes) v).1 then 1 else 0)
        (accWord (verifyChecksum s.hrpBytes (asSymbols s.tailBytes) v).2) s.res2)) := by
  rcases settle_eq_next.1 h with ⟨u, hu, rfl⟩ | ⟨e, -, rfl⟩
  · simp only [bind_eq_ok, pure_eq_ok, checkBoth_eq_ok, symbolOperand_eq_ok] at hu
    obtain ⟨-, hb, _, ⟨hs, rfl⟩, rfl⟩ := hu
    exact .inr ⟨hb, hs, rfl⟩
  · exact .inl ⟨e, rfl⟩

/-- What B32_ENCODE can do. -/
theorem b32Encode_cases {v : Variant} {s t : State} (h : b32Encode v s = .next t) :
    (∃ e, t = raiseError e s) ∨
    (s.alen.toNat + s.blen.toNat ≤ s.params.inBytes ∧ AllSymbols s.tailBytes ∧
      (bech32Encode s.hrpBytes (asSymbols s.tailBytes) v).1.length ≤ s.params.outBytes ∧
      t = complete ((s.outWrite (bech32Encode s.hrpBytes (asSymbols s.tailBytes) v).1).results
        (accWord (bech32Encode s.hrpBytes (asSymbols s.tailBytes) v).2) s.res1 s.res2)) := by
  rcases settle_eq_next.1 h with ⟨u, hu, rfl⟩ | ⟨e, -, rfl⟩
  · simp only [bind_eq_ok, pure_eq_ok, checkBoth_eq_ok, symbolOperand_eq_ok, checkOut_eq_ok] at hu
    obtain ⟨-, hb, _, ⟨hs, rfl⟩, -, ho, rfl⟩ := hu
    exact .inr ⟨hb, hs, ho, rfl⟩
  · exact .inl ⟨e, rfl⟩

/-- What B32.DEC can do. -/
theorem execB32Dec_cases {s t : State} (h : execB32Dec s = .next t) :
    (∃ e, t = raiseError e s) ∨
    ∃ r, s.blen.toNat ≤ s.params.inBytes ∧ bech32Decode s.textBytes = .ok r ∧
      (r.hrp ++ symbolBytes r.data).length ≤ s.params.outBytes ∧
      t = complete ((s.outWrite (r.hrp ++ symbolBytes r.data)).results (countWord r.hrp.length)
        (countWord r.data.length) (variantWord r.variant)) := by
  rcases settle_eq_next.1 h with ⟨u, hu, rfl⟩ | ⟨e, -, rfl⟩
  · simp only [bind_eq_ok, pure_eq_ok, checkBlen_eq_ok, liftCodec_eq_ok, checkOut_eq_ok] at hu
    obtain ⟨-, hb, r, hr, -, ho, rfl⟩ := hu
    exact .inr ⟨r, hb, hr, ho, rfl⟩
  · exact .inl ⟨e, rfl⟩

/-- What B32.ENCD can do. -/
theorem execB32Encd_cases {s t : State} (h : execB32Encd s = .next t) :
    (∃ e, t = raiseError e s) ∨
    (s.blen.toNat ≤ s.params.inBytes ∧ (encodeData s.textBytes).1.length ≤ s.params.outBytes ∧
      t = complete ((s.outWrite (encodeData s.textBytes).1).results (accWord (encodeData s.textBytes).2)
        (countWord (pack8to5 s.textBytes).length) s.res2)) := by
  rcases settle_eq_next.1 h with ⟨u, hu, rfl⟩ | ⟨e, -, rfl⟩
  · simp only [bind_eq_ok, pure_eq_ok, checkBlen_eq_ok, checkOut_eq_ok] at hu
    obtain ⟨-, hb, -, ho, rfl⟩ := hu
    exact .inr ⟨hb, ho, rfl⟩
  · exact .inl ⟨e, rfl⟩

/-- What B32.DECD can do. -/
theorem execB32Decd_cases {s t : State} (h : execB32Decd s = .next t) :
    (∃ e, t = raiseError e s) ∨
    ∃ bytes r, s.blen.toNat ≤ s.params.inBytes ∧ decodeData s.textBytes = .ok (bytes, r) ∧
      bytes.length ≤ s.params.outBytes ∧
      t = complete ((s.outWrite bytes).results (countWord r.hrp.length) (countWord r.data.length)
        (variantWord r.variant)) := by
  rcases settle_eq_next.1 h with ⟨u, hu, rfl⟩ | ⟨e, -, rfl⟩
  · simp only [bind_eq_ok, pure_eq_ok, checkBlen_eq_ok, liftCodec_eq_ok, checkOut_eq_ok] at hu
    obtain ⟨-, hb, ⟨bytes, r⟩, hr, -, ho, rfl⟩ := hu
    exact .inr ⟨bytes, r, hb, hr, ho, rfl⟩
  · exact .inl ⟨e, rfl⟩

/-- What UR.PROBE can do. -/
theorem execUrProbe_cases {s t : State} (h : execUrProbe s = .next t) :
    (∃ e, t = raiseError e s) ∨
    ∃ r, s.blen.toNat ≤ s.params.inBytes ∧ probe s.textBytes = .ok r ∧
      t = complete (s.spoilOut.results (countWord r.index) (countWord r.total) (countWord r.np)) := by
  rcases settle_eq_next.1 h with ⟨u, hu, rfl⟩ | ⟨e, -, rfl⟩
  · simp only [bind_eq_ok, pure_eq_ok, checkBlen_eq_ok] at hu
    obtain ⟨-, hb, r, hr, rfl⟩ := hu
    exact .inr ⟨r, hb, hr, rfl⟩
  · exact .inl ⟨e, rfl⟩

/-- What UR.DEC can do. -/
theorem execUrDec_cases {s t : State} (h : execUrDec s = .next t) :
    (∃ e, t = raiseError e s) ∨
    ∃ r, s.alen.toNat ≤ s.params.inBytes ∧ s.fcount.toNat ≤ s.params.maxFrags ∧
      (∀ k, k < s.fcount.toNat → s.descOff k + s.descLen k ≤ s.params.inBytes) ∧
      urDecode sha256 s.params.scratchBytes s.expType s.fragments = .ok r ∧
      r.bytes.length ≤ s.params.outBytes ∧
      t = complete ((s.outWrite r.bytes).results (countWord r.total) (countWord r.checked) (countWord r.plen)) := by
  rcases settle_eq_next.1 h with ⟨u, hu, rfl⟩ | ⟨e, -, rfl⟩
  · simp only [bind_eq_ok, pure_eq_ok, checkAlen_eq_ok, checkCount_eq_ok, checkDescs_eq_ok, checkOut_eq_ok] at hu
    obtain ⟨-, ha, -, hc, -, hd, r, hr, -, ho, rfl⟩ := hu
    exact .inr ⟨r, ha, hc, fun k hk => hd k (by omega) (by omega), hr, ho, rfl⟩
  · exact .inl ⟨e, rfl⟩

/-- The two ends of a command that has no output. -/
theorem work_of_registers {s t : State} {a : Acc} {r0 r1 r2 : Word}
    (h : t = complete { s.spoilOut with acc := a, res0 := r0, res1 := r1, res2 := r2 }) :
    (∃ e, t = raiseError e s) ∨ ∃ u, Work s u ∧ t = complete u := .inr ⟨_, .registers a r0 r1 r2, h⟩

/-- The two ends of a command that has an output. -/
theorem work_of_output {s t : State} {x : List Byte} {r0 r1 r2 : Word} (hx : x.length ≤ max 6 s.params.outBytes)
    (h : t = complete ((s.outWrite x).results r0 r1 r2)) :
    (∃ e, t = raiseError e s) ∨ ∃ u, Work s u ∧ t = complete u := .inr ⟨_, .output x r0 r1 r2 hx, h⟩

/-- The checksum of CHK_CREATE has six symbols. -/
@[simp] theorem length_createChecksum (h : List Byte) (d : List Symbol) (v : Variant) :
    (createChecksum h d v).2.length = 6 := rfl

/-- What any command can do: an error completion, or the completion of its work. -/
theorem exec_cases {i : Instr} {s t : State} (h : exec i s = .next t) :
    (∃ e, t = raiseError e s) ∨ ∃ u, Work s u ∧ t = complete u := by
  have create : ∀ v, chkCreate v s = .next t → (∃ e, t = raiseError e s) ∨ ∃ u, Work s u ∧ t = complete u := by
    intro v hv
    rcases chkCreate_cases hv with he | ⟨-, -, ht⟩
    · exact .inl he
    · exact work_of_output (by simp [symbolBytes]) ht
  have verify : ∀ v, chkVerify v s = .next t → (∃ e, t = raiseError e s) ∨ ∃ u, Work s u ∧ t = complete u := by
    intro v hv
    rcases chkVerify_cases hv with he | ⟨-, -, ht⟩
    · exact .inl he
    · exact work_of_registers (a := s.acc) ht
  have encode : ∀ v, b32Encode v s = .next t → (∃ e, t = raiseError e s) ∨ ∃ u, Work s u ∧ t = complete u := by
    intro v hv
    rcases b32Encode_cases hv with he | ⟨-, -, ho, ht⟩
    · exact .inl he
    · exact work_of_output (le_max_of_le_right ho) ht
  cases i with
  | nop => exact .inr ⟨s, .nothing, (Host.Outcome.next.inj h).symm⟩
  | polyInit => exact work_of_registers (Host.Outcome.next.inj h).symm
  | polyStep n => exact work_of_registers (Host.Outcome.next.inj h).symm
  | polyRun =>
    rcases execPolyRun_cases h with he | ⟨-, -, ht⟩
    · exact .inl he
    · exact work_of_registers ht
  | hrpExpand =>
    rcases execHrpExpand_cases h with he | ⟨-, ho, ht⟩
    · exact .inl he
    · exact work_of_output (r0 := s.res0) (r1 := s.res1) (r2 := s.res2) (le_max_of_le_right ho) ht
  | chkCreateO => exact create _ h
  | chkCreateB => exact create _ h
  | chkVerifyO => exact verify _ h
  | chkVerifyB => exact verify _ h
  | b32EncO => exact encode _ h
  | b32EncB => exact encode _ h
  | b32Dec =>
    rcases execB32Dec_cases h with he | ⟨r, -, -, ho, ht⟩
    · exact .inl he
    · exact work_of_output (le_max_of_le_right ho) ht
  | b32Encd =>
    rcases execB32Encd_cases h with he | ⟨-, ho, ht⟩
    · exact .inl he
    · exact work_of_output (le_max_of_le_right ho) ht
  | b32Decd =>
    rcases execB32Decd_cases h with he | ⟨_, _, -, -, ho, ht⟩
    · exact .inl he
    · exact work_of_output (le_max_of_le_right ho) ht
  | urProbe =>
    rcases execUrProbe_cases h with he | ⟨r, -, -, ht⟩
    · exact .inl he
    · exact work_of_registers (a := s.acc) ht
  | urDec =>
    rcases execUrDec_cases h with he | ⟨r, -, -, -, -, ho, ht⟩
    · exact .inl he
    · exact work_of_output (le_max_of_le_right ho) ht

end Sys2Proof.Machine
end

