-- ==== Sys2Proof/Laws/PerInstr.lean ====
section
/-! SUPPORT. The statement made of every command, one lemma a constructor: its word decodes to it. -/

namespace Sys2Proof.Laws

/-- A well-formed command decodes from its own word (30_encoding.md R77, R79). -/
def RoundTrip.Statement (i : Instr) : Prop := i.WellFormed → decode (encode i) = .ok i

theorem RoundTrip.nop : RoundTrip.Statement .nop := fun _ => by decide

theorem RoundTrip.polyInit : RoundTrip.Statement .polyInit := fun _ => by decide

theorem RoundTrip.polyStep (sym : Nat) : RoundTrip.Statement (.polyStep sym) := fun h => by
  have hs : sym < 32 := by simpa [Instr.WellFormed, Instr.wellFormed] using h
  have all : ∀ n : Fin 32, decode (encode (.polyStep n.val)) = .ok (.polyStep n.val) := by decide
  exact all ⟨sym, hs⟩

theorem RoundTrip.polyRun : RoundTrip.Statement .polyRun := fun _ => by decide

theorem RoundTrip.hrpExpand : RoundTrip.Statement .hrpExpand := fun _ => by decide

theorem RoundTrip.chkCreateO : RoundTrip.Statement .chkCreateO := fun _ => by decide

theorem RoundTrip.chkCreateB : RoundTrip.Statement .chkCreateB := fun _ => by decide

theorem RoundTrip.chkVerifyO : RoundTrip.Statement .chkVerifyO := fun _ => by decide

theorem RoundTrip.chkVerifyB : RoundTrip.Statement .chkVerifyB := fun _ => by decide

theorem RoundTrip.b32EncO : RoundTrip.Statement .b32EncO := fun _ => by decide

theorem RoundTrip.b32EncB : RoundTrip.Statement .b32EncB := fun _ => by decide

theorem RoundTrip.b32Dec : RoundTrip.Statement .b32Dec := fun _ => by decide

theorem RoundTrip.b32Encd : RoundTrip.Statement .b32Encd := fun _ => by decide

theorem RoundTrip.b32Decd : RoundTrip.Statement .b32Decd := fun _ => by decide

theorem RoundTrip.urProbe : RoundTrip.Statement .urProbe := fun _ => by decide

theorem RoundTrip.urDec : RoundTrip.Statement .urDec := fun _ => by decide

end Sys2Proof.Laws
end

