-- ==== Sys2Proof/Laws/Sha256.lean ====
section
/-! SUPPORT. What the rules rely on of the hash (00_scope.md R9: it "returns 32 bytes"), and its bitwise functions bit by
bit. -/

namespace Sys2Proof.Machine

/-- The hash has 32 bytes, whatever the message (R9). -/
@[simp] theorem length_sha256 (m : List Byte) : (sha256 m).length = 32 := rfl

/-- A bit of `choose` is the bit of the word that `x` selects. -/
theorem getLsbD_choose (x y z : Word) (i : Nat) :
    (choose x y z).getLsbD i = if x.getLsbD i then y.getLsbD i else z.getLsbD i := by
  unfold choose
  rw [BitVec.getLsbD_xor, BitVec.getLsbD_and, BitVec.getLsbD_xor]
  cases x.getLsbD i <;> cases y.getLsbD i <;> cases z.getLsbD i <;> rfl

/-- A bit of `majority` is set when at least two of the three bits are. -/
theorem getLsbD_majority (x y z : Word) (i : Nat) :
    (majority x y z).getLsbD i = decide (2 ≤ (x.getLsbD i).toNat + (y.getLsbD i).toNat + (z.getLsbD i).toNat) := by
  unfold majority
  rw [BitVec.getLsbD_or, BitVec.getLsbD_and, BitVec.getLsbD_and, BitVec.getLsbD_or]
  cases x.getLsbD i <;> cases y.getLsbD i <;> cases z.getLsbD i <;> rfl

end Sys2Proof.Machine
end

