-- ==== Sys2Proof/Laws/Step.lean ====
section
/-! SUPPORT. What one step can do, event by event: the lemmas later proofs about `step` cite instead of unfolding it. -/

namespace Sys2Proof.Machine

open Sys2Proof.Config

/-! ### The window -/

/-- A window offset seen from the bus. -/
@[simp] theorem locateBus_base (p : Params) (off : Nat) : locateBus p (p.blockBase + off) = locate p off := by
  simp [locateBus]

/-- Bits [1:0] of an offset do not matter. -/
theorem locate_low (p : Params) {off r : Nat} (hr : r < 4) (ho : off % 4 = 0) : locate p (off + r) = locate p off := by
  simp only [locate]
  congr 1
  omega

/-- Every offset of the window names something. -/
theorem locate_isSome (p : Params) {off : Nat} (h : off < windowEnd) : ∃ l, locate p off = some l := by
  have h' : off < 0x18000 := h
  unfold locate locateWord descBase inBase outBase windowEnd
  split_ifs <;> first | exact ⟨_, rfl⟩ | (exfalso; omega)

/-- No offset past the window does. -/
theorem locate_eq_none (p : Params) {off : Nat} (h : windowEnd ≤ off) : locate p off = none := by
  have h' : 0x18000 ≤ off := h
  unfold locate locateWord descBase inBase outBase windowEnd
  rw [if_neg (by omega), if_neg (by omega), if_neg (by omega), if_neg (by omega), if_neg (by omega)]

/-- An address before the window names nothing. -/
theorem locateBus_below (p : Params) {addr : Nat} (h : addr < p.blockBase) : locateBus p addr = none := by
  simp [locateBus, Nat.not_le.2 h]

/-- A descriptor's offset. -/
theorem locate_desc (p : Params) {k : Nat} (hk : k < p.maxFrags) (h : k < 256) :
    locate p (0x400 + 4 * k) = some (.desc k) := by
  have h1 : (0x400 + 4 * k) / 4 * 4 = 0x400 + 4 * k := by omega
  have h2 : (0x400 + 4 * k - 0x400) / 4 = k := by omega
  simp only [locate, locateWord, h1, descBase, h2, if_pos hk]
  rw [if_neg (by omega), if_pos (by omega)]

/-- An INBUF word's offset. -/
theorem locate_inbuf (p : Params) {j : Nat} (hj : 4 * j < p.inBytes) (h : 4 * j < 0x8000) :
    locate p (0x8000 + 4 * j) = some (.inbuf (4 * j)) := by
  have h1 : (0x8000 + 4 * j) / 4 * 4 = 0x8000 + 4 * j := by omega
  have h2 : 0x8000 + 4 * j - 0x8000 = 4 * j := by omega
  simp only [locate, locateWord, h1, descBase, inBase, outBase, h2, if_pos hj]
  rw [if_neg (by omega), if_neg (by omega), if_neg (by omega), if_pos (by omega)]

/-- An OUTBUF word's offset. -/
theorem locate_outbuf (p : Params) {j : Nat} (hj : 4 * j < p.outBytes) (h : 4 * j < 0x8000) :
    locate p (0x10000 + 4 * j) = some (.outbuf (4 * j)) := by
  have h1 : (0x10000 + 4 * j) / 4 * 4 = 0x10000 + 4 * j := by omega
  have h2 : 0x10000 + 4 * j - 0x10000 = 4 * j := by omega
  simp only [locate, locateWord, h1, descBase, inBase, outBase, windowEnd, h2, if_pos hj]
  rw [if_neg (by omega), if_neg (by omega), if_neg (by omega), if_neg (by omega), if_pos (by omega)]

/-! ### The events -/

/-- A step with an event pending takes that event. -/
theorem step_cons {s : State} {e : Input} {rest : List Input} (h : s.inputs = e :: rest) :
    step s = deliver e { s with inputs := rest, answer := none } := by
  simp only [step, advance, State.nextInput, h, State.popInput, List.tail_cons]

/-- A step whose event is the engine's turn. -/
theorem step_engine {s : State} (h : s.nextInput = .engine) :
    step s = engineTurn { s with inputs := s.inputs.tail, answer := none } := by
  simp only [step, advance, h, State.popInput, deliver]

/-- A host read of a location of the window. -/
theorem step_read {s : State} {addr : Nat} {rest : List Input} {l : Loc} (h : s.inputs = .read addr :: rest)
    (hl : locateBus s.params addr = some l) :
    step s = .next (hostRead l { s with inputs := rest, answer := none }) := by
  rw [step_cons h]
  simp [deliver, hl]

/-- A host write of a location of the window. -/
theorem step_write {s : State} {addr : Nat} {v : Word} {rest : List Input} {l : Loc}
    (h : s.inputs = .write addr v :: rest) (hl : locateBus s.params addr = some l) :
    step s = .next (hostWrite l v { s with inputs := rest, answer := none }) := by
  rw [step_cons h]
  simp [deliver, hl]

/-- The engine's turn while a command is in flight. -/
theorem engineTurn_busy {s : State} (hr : s.rst = false) (hb : s.eng = .busy) : engineTurn s = completion s := by
  simp [engineTurn, hr, hb]

/-- What the completion step can do: the meaning of the decoded command, or ILLEGAL_COMMAND. -/
theorem completion_cases {s t : State} (h : completion s = .next t) :
    (∃ i, decode s.cmd = .ok i ∧ exec i s = .next t) ∨ ((∃ e, decode s.cmd = .error e) ∧ t = completeIllegal s) := by
  unfold completion at h
  split at h
  · rename_i i hi
    exact .inl ⟨i, hi, h⟩
  · rename_i e he
    exact .inr ⟨⟨e, he⟩, (Host.Outcome.next.inj h).symm⟩

/-- The completion step as an end of a command: an error completion, or the completion of a work. -/
theorem completion_work {s t : State} (h : completion s = .next t) :
    (∃ e, t = raiseError e s) ∨ ∃ u, Work s u ∧ t = complete u := by
  rcases completion_cases h with ⟨i, -, hi⟩ | ⟨-, rfl⟩
  · exact exec_cases hi
  · exact .inl ⟨_, rfl⟩

/-- What the engine's turn can do. -/
theorem engineTurn_cases {s t : State} (h : engineTurn s = .next t) :
    t = s ∨ (s.rst = false ∧ s.eng = .busy ∧ completion s = .next t) := by
  unfold engineTurn at h
  cases hr : s.rst
  · cases he : s.eng
    · simp [hr, he] at h
      exact .inl h.symm
    · simp [hr, he] at h
      exact .inr ⟨rfl, rfl, h⟩
  · simp [hr] at h
    exact .inl h.symm

/-- What a host read can do: answer a word, free or held; nothing else. -/
theorem hostRead_cases (l : Loc) (s : State) :
    (∃ w, hostRead l s = answerWith w s) ∨ ∃ mask, hostRead l s = answerFree mask s := by
  unfold hostRead busyRead
  split
  · exact .inr ⟨_, rfl⟩
  · split
    · exact .inl ⟨_, rfl⟩
    · split
      · exact .inl ⟨_, rfl⟩
      · exact .inr ⟨_, rfl⟩

/-- What a host write can do. -/
theorem hostWrite_cases (l : Loc) (v : Word) (s : State) :
    hostWrite l v s = s ∨
    (s.rst = false ∧ isSoftReset l v = true ∧ hostWrite l v s = softReset s) ∨
    (s.rst = false ∧ s.eng = .idle ∧ hostWrite l v s = idleWrite l v s) ∨
    (s.rst = false ∧ s.eng = .busy ∧ hostWrite l v s = hazard s) := by
  unfold hostWrite
  cases hr : s.rst
  · cases hs : isSoftReset l v
    · cases he : s.eng
      · simp
      · by_cases hz : hazardous l = true <;> simp [busyWrite, hz]
    · simp
  · simp

/-- What a step that answers a next state can do. -/
theorem step_cases {s t : State} (h : step s = .next t) :
    (s.nextInput = .engine ∧ engineTurn s.popInput = .next t) ∨
    (∃ addr l, s.nextInput = .read addr ∧ locateBus s.params addr = some l ∧ t = hostRead l s.popInput) ∨
    (∃ addr v l, s.nextInput = .write addr v ∧ locateBus s.params addr = some l ∧ t = hostWrite l v s.popInput) ∨
    (s.nextInput = .assertRst ∧ t = { hardReset s.popInput with rst := true }) ∨
    (s.nextInput = .releaseRst ∧ t = { s.popInput with rst := false }) := by
  simp only [step, advance] at h
  cases he : s.nextInput with
  | engine => exact .inl ⟨rfl, by simpa [he, deliver] using h⟩
  | read addr =>
    cases hl : locateBus s.params addr with
    | none => simp [he, deliver, hl] at h
    | some l =>
      simp only [he, deliver, popInput_params, hl, Host.Outcome.next.injEq] at h
      exact .inr (.inl ⟨addr, l, rfl, hl, h.symm⟩)
  | write addr v =>
    cases hl : locateBus s.params addr with
    | none => simp [he, deliver, hl] at h
    | some l =>
      simp only [he, deliver, popInput_params, hl, Host.Outcome.next.injEq] at h
      exact .inr (.inr (.inl ⟨addr, v, l, rfl, hl, h.symm⟩))
  | assertRst =>
    simp only [he, deliver, Host.Outcome.next.injEq] at h
    exact .inr (.inr (.inr (.inl ⟨rfl, h.symm⟩)))
  | releaseRst =>
    simp only [he, deliver, Host.Outcome.next.injEq] at h
    exact .inr (.inr (.inr (.inr ⟨rfl, h.symm⟩)))

end Sys2Proof.Machine
end

