-- ==== Sys2Proof/Tests/Slice0.lean ====
section
/-! SUPPORT. Tests: the smoke test of WellFormed, words written out from 30_encoding.md R70 and R71, vectors of
95_test_vectors.md, and for every statement with hypotheses a witness that meets them. -/

namespace Sys2Proof.Tests

open Sys2Proof.Machine Sys2Proof.Config

set_option maxRecDepth 100000

/-! ### Helpers -/

/-- Bytes from numbers. -/
def bytes (ns : List Nat) : List Byte := ns.map (BitVec.ofNat 8)

/-- A block after reset with INBUF and the operand registers set. -/
def idle (input : List Nat) (a b f : Nat) : State :=
  { State.reset with
    mem := Memory.cellsFrom inBase (bytes input)
    alen := BitVec.ofNat 16 a
    blen := BitVec.ofNat 16 b
    fcount := BitVec.ofNat 8 f }

/-- The same with a command word issued and its completion next. -/
def issuedWith (w : Word) (input : List Nat) (a b f : Nat) : State := issued w (idle input a b f)

/-- A block with an event pending. -/
def withEvent (e : Input) (s : State) : State := { s with inputs := e :: s.inputs }

/-- What the next step leaves, as `f` sees it. -/
def after {α : Type} (s : State) (f : State → α) : Option α :=
  match step s with
  | .next t => some (f t)
  | .fault _ => none
  | .refused _ => none

/-- OUTBUF's valid bytes. -/
def output (t : State) : List Nat := (List.range t.outLen.toNat).map (fun i => (t.outByteAt i).toNat)

/-- ERRCODE and ERR_INFO. -/
def error (t : State) : Word × Word := (t.statusWord, errInfoWord t.errInfo)

/-! ### WellFormed refuses -/

/-- R78: a symbol is 0 to 31. -/
theorem test_wellFormed_symbol : (Instr.polyStep 31).wellFormed = true ∧ (Instr.polyStep 32).wellFormed = false := by
  decide

/-! ### Words written out from the encoding (R70, R71): OP [7:0], VAR [8], SYM [20:16] -/

theorem test_decode_nop : decode 0x00000000#32 = .ok .nop := by decide
/-- VAR and SYM are ignored by NOP (95_test_vectors.md 6.1). -/
theorem test_decode_nop_ignored : decode 0x001F0100#32 = .ok .nop := by decide
theorem test_decode_polyInit : decode 0x00000001#32 = .ok .polyInit := by decide
theorem test_decode_polyStep : decode 0b00000000000100110000000000000010#32 = .ok (.polyStep 19) := by decide
theorem test_decode_polyRun : decode 0x00000003#32 = .ok .polyRun := by decide
theorem test_decode_hrpExpand : decode 0x00000004#32 = .ok .hrpExpand := by decide
theorem test_decode_chkCreate : decode 0x00000005#32 = .ok .chkCreateO ∧ decode 0x00000105#32 = .ok .chkCreateB := by
  decide
theorem test_decode_chkVerify : decode 0x00000006#32 = .ok .chkVerifyO ∧ decode 0x00000106#32 = .ok .chkVerifyB := by
  decide
theorem test_decode_b32Enc : decode 0x00000007#32 = .ok .b32EncO ∧ decode 0x00000107#32 = .ok .b32EncB := by decide
theorem test_decode_b32Dec : decode 0x00000008#32 = .ok .b32Dec := by decide
theorem test_decode_b32Encd : decode 0x00000009#32 = .ok .b32Encd := by decide
theorem test_decode_b32Decd : decode 0x0000000A#32 = .ok .b32Decd := by decide
theorem test_decode_urProbe : decode 0x0000000B#32 = .ok .urProbe := by decide
theorem test_decode_urDec : decode 0x0000000C#32 = .ok .urDec := by decide
theorem test_decode_illegal : decode 0x0000000D#32 = .error .unknownOpcode ∧ decode 0x000000FF#32 = .error .unknownOpcode ∧
    decode 0x00000200#32 = .error .reservedBits ∧ decode 0x80000000#32 = .error .reservedBits := by decide
theorem test_table_word : decodeTableWord 32 0x001F0002 = some (.polyStep 31) := by decide

/-! ### Vectors of 95_test_vectors.md -/


/-- Section 6.2 form: NOP leaves DONE alone in STATUS, and OUT_LEN 0. -/
theorem test_nop_completes :
    after (issuedWith 0 [] 0 0 0) (fun t => (t.statusWord, t.outLen)) = some (2,
      0) := by decide

/-- R116. -/
theorem test_polyInit : after { issuedWith 1 [] 0 0 0 with acc := 7 } (fun t => t.acc) = some 1 := by decide

/-- Section 3.1. -/
theorem test_polyStep_all_generators :
    after { issuedWith 0x001F0002 [] 0 0 0 with acc := 0x3FFFFFFF } (fun t => t.acc) = some 0x2B326EB4 := by decide

/-- Section 3.1. -/
theorem test_polyStep_one_generator :
    after { issuedWith 2 [] 0 0 0 with acc := 0x04000000 } (fun t => t.acc) = some 0x26508E6D := by decide

/-- Section 3.1, the trace. -/
theorem test_polyRun :
    after (issuedWith 3 [3, 0, 1, 0, 0, 0, 0, 0,
      0] 0 9 0) (fun t => t.acc) = some 0x15CCFE9E := by decide

/-- R118. -/
theorem test_polyRun_bad_symbol :
    after (issuedWith 3 [3, 32] 0 2 0) (fun t => (error t,
      t.acc)) = some ((0x00000406, 0x00FF0001), 1) := by decide

/-- Section 3.2. -/
theorem test_hrpExpand : after (issuedWith 4 [0x7E, 0x21] 2 0 0) output = some [3, 1, 0, 30, 1] := by decide

/-- Section 3.2. -/
theorem test_hrpExpand_empty : after (issuedWith 4 [] 0 0 0) output = some [0] := by decide

/-- Section 3.3. -/
theorem test_chkCreateO :
    after (issuedWith 5 [0x61, 0x62, 0x63, 1, 2, 3] 3 3 0) (fun t => (output t, t.res0,
      t.res1)) = some ([31, 22, 24, 29, 11, 26], 0x3F6C757A, 0x3F6C757B) := by decide

/-- Section 3.3. -/
theorem test_chkCreateB :
    after (issuedWith 0x105 [0x61, 0x62, 0x63, 1, 2, 3] 3 3 0) (fun t => (output t, t.res0,
      t.res1)) = some ([0, 9, 7, 2, 20, 4], 0x00938A84, 0x3F6C757B) := by decide

/-- Section 3.4. -/
theorem test_chkVerifyO :
    after (issuedWith 6 [0x61, 10, 28, 25, 31, 20, 31] 1 6 0) (fun t => (t.res0,
      t.res1)) = some (1, 1) := by decide

/-- Section 3.4: a wrong checksum is a result. -/
theorem test_chkVerifyO_wrong :
    after (issuedWith 6 [1, 2, 3] 0 3 0) (fun t => (t.statusWord, t.res0,
      t.res1)) = some (2, 0, 0x00100443) := by decide

/-- Section 3.4. -/
theorem test_chkVerifyB :
    after (issuedWith 0x106 [16, 2, 16, 5, 20, 25] 0 6 0) (fun t => (t.res0,
      t.res1)) = some (1, 0x3FFFFFFF) := by decide

/-- Section 3.5: `abc1pzrlkcat6`. -/
theorem test_b32EncO :
    after (issuedWith 7 [0x61, 0x62, 0x63, 1, 2, 3] 3 3 0) output = some [0x61, 0x62, 0x63,
      0x31, 0x70, 0x7A, 0x72, 0x6C, 0x6B, 0x63, 0x61, 0x74, 0x36] := by decide

/-- Section 3.5: `szs95e`. -/
theorem test_b32EncB :
    after (issuedWith 0x107 [] 0 0 0) output = some [0x73, 0x7A, 0x73, 0x39, 0x35,
      0x65] := by decide

/-- Section 3.6: `abc1pzrlkcat6`. -/
theorem test_b32Dec_origin :
    after (issuedWith 8 [0x61, 0x62, 0x63, 0x31, 0x70, 0x7A, 0x72, 0x6C, 0x6B, 0x63,
      0x61, 0x74, 0x36] 0 13 0) (fun t => (output t, t.res0, t.res1, t.res2)) = some ([0x61, 0x62, 0x63, 1, 2, 3], 3,
      3, 0) := by decide

/-- Section 2.2: `li1dgmt3`. -/
theorem test_b32Dec_separator :
    after (issuedWith 8 [0x6C, 0x69, 0x31, 0x64, 0x67, 0x6D, 0x74,
      0x33] 0 8 0) error = some (0x00001306, 0x01FF0002) := by decide

/-- Section 3.8: `gn02m0h002kgc7`. -/
theorem test_b32Encd :
    after (issuedWith 9 [0x44, 0xDE, 0xAD, 0xBE, 0xEF] 0 5 0) (fun t => (output t,
      t.res1)) = some ([0x67, 0x6E, 0x30, 0x32, 0x6D, 0x30, 0x68, 0x30, 0x30, 0x32, 0x6B, 0x67, 0x63, 0x37],
      8) := by decide

/-- Section 3.8: `M6KMAMCY4ZT9A`. -/
theorem test_b32Decd :
    after (issuedWith 10 [0x4D, 0x36, 0x4B, 0x4D, 0x41, 0x4D, 0x43, 0x59, 0x34, 0x5A, 0x54,
      0x39, 0x41] 0 13 0) (fun t => (output t, t.res1, t.res2)) = some ([0xDE, 0xAD, 0xBE, 0xEF], 7, 1) := by decide

/-- Section 3.8: `pqtzam4`. -/
theorem test_b32Decd_padding :
    after (issuedWith 10 [0x70, 0x71, 0x74, 0x7A, 0x61, 0x6D,
      0x34] 0 7 0) error = some (0x00001606, 0x01FF0001) := by decide

/-- Section 4.1: `UR:BYTES/2OF3/X/Y`. -/
theorem test_urProbe :
    after (issuedWith 11 [0x55, 0x52, 0x3A, 0x42, 0x59, 0x54, 0x45, 0x53, 0x2F, 0x32, 0x4F,
      0x46, 0x33, 0x2F, 0x58, 0x2F, 0x59] 0 17 0) (fun t => (t.res0, t.res1, t.res2)) = some (2, 3, 4) := by decide

/-- Section 4.1: `a/b/c/d/e`. -/
theorem test_urProbe_shape :
    after (issuedWith 11 [0x61, 0x2F, 0x62, 0x2F, 0x63, 0x2F, 0x64, 0x2F,
      0x65] 0 9 0) error = some (0x00002406, 0x00FF0005) := by decide

/-- A state with one fragment at the start of INBUF, described by DESC[0]. -/
def oneFragment (f : List Nat) : State :=
  let s := issuedWith 12 f 0 0 1
  { s with mem := Memory.storeWord s.mem descBase (BitVec.ofNat 32 (f.length * 65536)) }

/-- Section 4.2: `ur:bytes/gn02m0h002kgc7`. -/
theorem test_urDec_single :
    after (oneFragment [0x75, 0x72, 0x3A, 0x62, 0x79, 0x74, 0x65, 0x73, 0x2F, 0x67, 0x6E,
      0x30, 0x32, 0x6D, 0x30, 0x68, 0x30, 0x30, 0x32, 0x6B, 0x67, 0x63, 0x37]) (fun t => (output t, t.res0, t.res1,
      t.res2)) = some ([0x44, 0xDE, 0xAD, 0xBE, 0xEF], 1, 0, 14) := by decide

/-- R168: no fragments. -/
theorem test_urDec_empty : after (issuedWith 12 [] 0 0 0) error = some (0x00002606, 0x00FF0000) := by decide

/-- R98 (section 6.1): the word 0x0000020E. -/
theorem test_illegal_word :
    after (issuedWith 0x0000020E [] 0 0 0) error = some (0x00000106,
      0x00FF000E) := by decide

/-- FIPS 180-4 (log 10): the digest S1 of the fixture table. -/
theorem test_sha256 :
    sha256 (bytes [0x44, 0xDE, 0xAD, 0xBE, 0xEF]) = bytes [0xB9, 0xBB, 0xBD, 0x8B, 0xB6, 0x6C,
      0x50, 0x19, 0xE8, 0x29, 0x6C, 0xAA, 0x45, 0x38, 0xF2, 0x8F, 0x70, 0x32, 0x75, 0x50, 0x26, 0x08, 0x7C, 0xF1,
      0x52, 0x29, 0xFD, 0x48, 0x56, 0x66, 0x5C, 0x5A] := by decide

/-- FIPS 180-4 (log 10): its first and last round constants and its last initial word. -/
theorem test_sha_constants :
    shaConstants.head? = some 0x428A2F98 ∧ shaConstants.getLast? = some 0xC67178F2 ∧ shaInitial.h = 0x5BE0CD19 := by decide

/-- Section 5, the fragments U0, U1 and U2 in reverse order. -/
def fragmentSet : List (List Byte) :=
  [bytes [0x75, 0x72, 0x3A, 0x62, 0x79, 0x74, 0x65, 0x73, 0x2F, 0x33, 0x6F, 0x66, 0x33, 0x2F, 0x36, 0x7A,
     0x6D, 0x73, 0x79, 0x72, 0x79, 0x39, 0x35, 0x7A, 0x77, 0x74, 0x38, 0x33, 0x32, 0x7A, 0x70,
     0x73, 0x6C, 0x32, 0x6B, 0x33, 0x35, 0x6A, 0x37, 0x33, 0x6E, 0x73, 0x6D, 0x77, 0x68, 0x6A,
     0x6D, 0x72, 0x73, 0x33, 0x32, 0x67, 0x6B, 0x30, 0x66, 0x66, 0x79, 0x66, 0x78, 0x7A, 0x34,
     0x71, 0x64, 0x65, 0x6A, 0x71, 0x77, 0x71, 0x32, 0x39, 0x39, 0x32, 0x2F, 0x67, 0x74],
   bytes [0x75, 0x72, 0x3A, 0x62, 0x79, 0x74, 0x65, 0x73, 0x2F, 0x32, 0x6F, 0x66, 0x33, 0x2F, 0x36, 0x7A,
     0x6D, 0x73, 0x79, 0x72, 0x79, 0x39, 0x35, 0x7A, 0x77, 0x74, 0x38, 0x33, 0x32, 0x7A, 0x70,
     0x73, 0x6C, 0x32, 0x6B, 0x33, 0x35, 0x6A, 0x37, 0x33, 0x6E, 0x73, 0x6D, 0x77, 0x68, 0x6A,
     0x6D, 0x72, 0x73, 0x33, 0x32, 0x67, 0x6B, 0x30, 0x66, 0x66, 0x79, 0x66, 0x78, 0x7A, 0x34,
     0x71, 0x64, 0x65, 0x6A, 0x71, 0x77, 0x71, 0x32, 0x39, 0x39, 0x32, 0x2F, 0x72, 0x71, 0x77,
     0x7A, 0x71, 0x66, 0x73, 0x7A, 0x34, 0x71],
   bytes [0x75, 0x72, 0x3A, 0x62, 0x79, 0x74, 0x65, 0x73, 0x2F, 0x31, 0x6F, 0x66, 0x33, 0x2F, 0x36, 0x7A,
     0x6D, 0x73, 0x79, 0x72, 0x79, 0x39, 0x35, 0x7A, 0x77, 0x74, 0x38, 0x33, 0x32, 0x7A, 0x70,
     0x73, 0x6C, 0x32, 0x6B, 0x33, 0x35, 0x6A, 0x37, 0x33, 0x6E, 0x73, 0x6D, 0x77, 0x68, 0x6A,
     0x6D, 0x72, 0x73, 0x33, 0x32, 0x67, 0x6B, 0x30, 0x66, 0x66, 0x79, 0x66, 0x78, 0x7A, 0x34,
     0x71, 0x64, 0x65, 0x6A, 0x71, 0x77, 0x71, 0x32, 0x39, 0x39, 0x32, 0x2F, 0x66, 0x79, 0x71,
     0x73, 0x79, 0x71, 0x63, 0x79, 0x71, 0x35]]

/-- Section 5 and program P3: the nine-byte payload with its header, total 3, digest checked, 22 characters. -/
theorem test_urDec_three :
    urDecode sha256 8192 defaultType fragmentSet = .ok ⟨bytes [0x49, 1, 2, 3, 4, 5, 6, 7,
      8, 9], 3, 1, 22⟩ := by decide
/-! ### Witnesses: states and operands that meet the hypotheses of each statement -/

/-- Events pending in place of those of `s`. -/
def awaiting (es : List Input) (s : State) : State := { s with inputs := es }

/-- A command in flight over three symbols and three descriptors' worth of nothing, with events pending. -/
def running (es : List Input) : State := awaiting es (issuedWith 3 [3, 0, 1] 1 2 0)

/-- An idle block with events pending. -/
def resting (es : List Input) : State := awaiting es (idle [3, 0, 1, 2] 1 2 0)

theorem witness_DecodeEncodeAgree : (Instr.polyStep 31).WellFormed ∧ Instr.urDec.WellFormed := by decide

/-- Every clause on OP has a word, the first and the last of the reserved ones too. -/
theorem witness_DecodeFollowsTheTable :
    (∀ op ∈ [0x00, 0x01, 0x02, 0x03, 0x04, 0x05, 0x06, 0x07, 0x08, 0x09, 0x0A, 0x0B, 0x0C, 0x0D, 0xFF],
      (BitVec.ofNat 32 op).extractLsb' 9 7 = 0 ∧ (BitVec.ofNat 32 op).extractLsb' 21 11 = 0 ∧
      (BitVec.ofNat 32 op).extractLsb' 0 8 = BitVec.ofNat 8 op) ∧
    (0x00000200#32).extractLsb' 9 7 ≠ 0 ∧ (0x00008000#32).extractLsb' 9 7 ≠ 0 ∧
    (0x00200000#32).extractLsb' 21 11 ≠ 0 ∧ (0x80000000#32).extractLsb' 21 11 ≠ 0 := by decide

theorem witness_StepRunsTheDecodedCommand :
    (running []).rst = false ∧ (running []).eng = .busy ∧ (running []).nextInput = .engine ∧
    Instr.polyRun.WellFormed ∧ decode (running []).cmd = .ok .polyRun := by decide

theorem witness_IllegalWordCompletesWithError :
    (∀ c : Word, (issuedWith c [] 0 0 0).rst = false ∧ (issuedWith c [] 0 0 0).eng = .busy ∧
      (issuedWith c [] 0 0 0).nextInput = .engine ∧ (issuedWith c [] 0 0 0).cmd = c) ∧
    (0x0000020E#32).extractLsb' 9 7 ≠ 0 ∧ (0x00200000#32).extractLsb' 21 11 ≠ 0 ∧
    0x0D ≤ ((0x0000000D#32).extractLsb' 0 8).toNat ∧ 0x0D ≤ ((0x000000FF#32).extractLsb' 0 8).toNat :=
  ⟨fun _ => ⟨rfl, rfl, rfl, rfl⟩, by decide⟩

/-- Both engine states, at the last byte of the register. -/
theorem witness_CmdWriteIssues :
    (∀ s ∈ [resting [.write 0x027 5], running [.write 0x027 5]],
      s.rst = false ∧ s.inputs = [.write (s.params.blockBase + 0x024 + 3) 5]) ∧
    (resting [.write 0x027 5]).eng = .idle ∧ (running [.write 0x027 5]).eng = .busy := by decide

theorem witness_CommandAlwaysCompletes :
    (running [.engine]).rst = false ∧ (running [.engine]).eng = .busy ∧ (running [.engine]).nextInput = .engine := by
  decide

theorem witness_ErrorsLeaveNoPartialResult :
    exec .urDec (running []) = .next (raiseError ⟨.emptySet, 0, 0xFF, 0⟩ (running [])) ∧
    (raiseError ⟨.emptySet, 0, 0xFF, 0⟩ (running [])).errcode ≠ 0 := ⟨rfl, by decide⟩

theorem witness_CommandsKeepInputs :
    exec .polyRun (running []) = .next (complete { (running []).spoilOut with acc := 0x460 }) := rfl

theorem witness_OnlyPolyCommandsWriteAcc :
    writesAcc .polyInit = true ∧ writesAcc .urDec = false ∧
    exec .urDec (running []) = .next (raiseError ⟨.emptySet, 0, 0xFF, 0⟩ (running [])) := ⟨rfl, rfl, rfl⟩

theorem witness_OutputBeyondOutLenIsUnspecified :
    (running []).params.Legal ∧ Instr.polyInit ≠ .nop ∧
    exec .polyInit (running []) = .next (complete { (running []).spoilOut with acc := 1 }) := by
  refine ⟨by decide, by decide, rfl⟩

/-- A command in flight, with listed memory, meets the invariant. -/
theorem inv_running (es : List Input) : (running es).Inv where
  legal := by show Params.default.Legal; decide
  canonical := by show Memory.wf (Memory.cellsFrom inBase (bytes [3, 0, 1])) = true; decide
  mapped := by
    show ∀ c ∈ Memory.cellsFrom inBase (bytes [3, 0, 1]), byteMapped Params.default c.1
    unfold byteMapped
    decide
  inFlight := fun _ => ⟨rfl, rfl, rfl, rfl, rfl, rfl, rfl, rfl⟩
  produced := by show (0 : BitVec 8) ∈ producedCodes; decide
  noError := fun _ => rfl
  noPartial := fun h => absurd rfl h
  outFits := by show (0 : BitVec 16).toNat ≤ 4096; decide
  outValid := fun i (h : i < 0) => absurd h (Nat.not_lt_zero i)
  held := fun h => nomatch h

theorem witness_StepKeepsGoodState :
    (running [.read 0x028]).Inv ∧ step (running [.read 0x028]) = .next { running [] with answer := some 1 } :=
  ⟨inv_running _, rfl⟩

theorem witness_StepKeepsParameters :
    step (running [.read 0x028]) = .next { running [] with answer := some 1 } := rfl

/-- Reads and a hazard write before the completion step. -/
theorem witness_ResultIndependentOfLatency :
    let es : List Input := [.read 0x028, .write 0x033 9, .read 0x17FFF]
    (running (es ++ [.engine])).rst = false ∧ (running (es ++ [.engine])).eng = .busy ∧
    (running (es ++ [.engine])).inputs = es ++ .engine :: [] ∧
    ∀ e ∈ es, PlainAccess (running (es ++ [.engine])).params e := by
  refine ⟨rfl, rfl, rfl, ?_⟩
  simp only [List.forall_mem_cons]
  exact ⟨⟨.reg .status, rfl⟩, ⟨.reg .alen, rfl, rfl⟩, ⟨.reserved, by decide⟩, by simp⟩

/-- The block with `rst` asserted. -/
def held (es : List Input) : State := awaiting es { State.reset with rst := true }

/-- The two events of `rst`, and accesses at both ends of the window while it is asserted. -/
theorem witness_HardResetGivesResetColumn :
    (running [.assertRst]).inputs = [.assertRst] ∧ (held [.releaseRst]).inputs = [.releaseRst] ∧
    (∀ addr ∈ [0x00000, 0x17FFF], (held [.read addr]).rst = true ∧ (held [.read addr]).inputs = [.read addr] ∧
      (held [.write addr 7]).inputs = [.write addr 7] ∧
      (held [.read addr]).params.blockBase ≤ addr ∧ addr < (held [.read addr]).params.blockBase + 0x18000) ∧
    (held []).nextInput = .engine := by decide

theorem witness_SoftResetAbandonsCommand :
    ∀ r : Fin 4, (running [.write (0x020 + r.val) 2]).rst = false ∧ (2 : Word).getLsbD 1 = true ∧
      (running [.write (0x020 + r.val) 2]).inputs =
        [.write ((running [.write (0x020 + r.val) 2]).params.blockBase + 0x020 + r.val) 2] := by decide

/-- Each of the registers has its read pending. -/
theorem witness_IdleReadAnswersRegister :
    ∀ off ∈ [0x000, 0x004, 0x008, 0x00C, 0x010, 0x020, 0x024, 0x028, 0x02C, 0x030, 0x034, 0x038, 0x03C, 0x040, 0x044,
      0x048, 0x04C],
      (resting [.read off]).rst = false ∧ (resting [.read off]).eng = .idle ∧
      (resting [.read off]).inputs = [.read ((resting [.read off]).params.blockBase + off)] := by decide

/-- Reads of the registers, of the last descriptor, and of the last words of both buffers. -/
theorem witness_BusyReadAnswers :
    ∀ off ∈ [0x000, 0x028, 0x02C, 0x040, 0x3FC, 0x7FFC, 0x400 + 4 * 63, 0x8000 + 4 * 1023, 0x10000 + 4 * 1023],
      (running [.read off]).rst = false ∧ (running [.read off]).eng = .busy ∧ (running [.read off]).Inv ∧
      (running [.read off]).inputs = [.read ((running [.read off]).params.blockBase + off)] ∧
      63 < (running [.read off]).params.maxFrags ∧ 4 * 1023 < (running [.read off]).params.inBytes ∧
      4 * 1023 < (running [.read off]).params.outBytes :=
  fun _ _ => ⟨rfl, rfl, inv_running _, congrArg (fun a => [Input.read a]) (Nat.zero_add _).symm,
    (by decide : 63 < 64), (by decide : 4 * 1023 < 4096), (by decide : 4 * 1023 < 4096)⟩

/-- Hazard writes at the ends of each range, and ignored ones at the ends of theirs. -/
theorem witness_HazardWritesAreIgnored :
    (∀ off ∈ [0x020, 0x024, 0x040, 0x400, 0x400 + 4 * 63, 0x8000, 0x8000 + 4 * 1023, 0x000, 0x014, 0x01C, 0x04C, 0x050,
      0x3FF, 0x400 + 4 * 64, 0x400 + 4 * 255, 0x800, 0x7FFF, 0x8000 + 4 * 1024, 0x8000 + 4 * 8191, 0x10000, 0x17FFF],
      (running [.write off 1]).rst = false ∧ (running [.write off 1]).eng = .busy ∧
      (running [.write off 1]).inputs = [.write ((running [.write off 1]).params.blockBase + off) 1]) ∧
    (running []).params.Legal ∧ (1 : Word).getLsbD 1 = false ∧ (running []).params.maxFrags = 64 ∧
    (running []).params.inBytes = 4 * 1024 := by decide

/-- HAZ falls by a STATUS write while IDLE. -/
theorem witness_HazIsSticky :
    let s : State := { resting [.write 0x028 8] with haz := true }
    step s = .next { s with haz := false, inputs := [] } ∧ s.haz = true ∧ ({ s with haz := false } : State).haz = false :=
  ⟨rfl, rfl, rfl⟩

/-- Reads and writes at the ends of each range. -/
theorem witness_ReservedReadZeroIgnoreWrites :
    (∀ off ∈ [0x014, 0x01C, 0x050, 0x3FF, 0x400 + 4 * 64, 0x400 + 4 * 255, 0x800, 0x7FFF, 0x8000 + 4 * 1024,
      0x8000 + 4 * 8191, 0x10000 + 4 * 1024, 0x10000 + 4 * 8191, 0x10000, 0x17FFF],
      (resting [.read off]).rst = false ∧
      (resting [.read off]).inputs = [.read ((resting [.read off]).params.blockBase + off)] ∧
      (resting [.write off 1]).eng = .idle ∧
      (resting [.write off 1]).inputs = [.write ((resting [.write off 1]).params.blockBase + off) 1]) ∧
    (resting []).params.maxFrags = 64 ∧ (resting []).params.inBytes = 4 * 1024 ∧
    (resting []).params.outBytes = 4 * 1024 := by decide

theorem witness_IdleWriteStoresRegister :
    ∀ off ∈ [0x020, 0x030, 0x034, 0x038, 0x040],
      (resting [.write off 0xFFFFFFFD]).rst = false ∧ (resting [.write off 0xFFFFFFFD]).eng = .idle ∧
      (resting [.write off 0xFFFFFFFD]).inputs =
        [.write ((resting [.write off 0xFFFFFFFD]).params.blockBase + off) 0xFFFFFFFD] ∧
      (0xFFFFFFFD : Word).getLsbD 1 = false := by decide

theorem witness_StatusWriteClears :
    (∀ v : Word, (resting [.write 0x028 v]).rst = false ∧ (resting [.write 0x028 v]).eng = .idle ∧
      (resting [.write 0x028 v]).inputs = [.write ((resting [.write 0x028 v]).params.blockBase + 0x028) v] ∧
      (running [.write 0x028 v]).eng = .busy) ∧
    (2 : Word).getLsbD 1 = true ∧ (2 : Word).getLsbD 3 = false ∧
    (8 : Word).getLsbD 1 = false ∧ (8 : Word).getLsbD 3 = true := ⟨fun _ => ⟨rfl, rfl, rfl, rfl⟩, by decide⟩

/-- The first and the last word of each buffer, and a read after the write. -/
theorem witness_BufferWordsAreLittleEndian :
    ∀ j ∈ [0, 1023],
      (∀ s ∈ [resting [.read (0x8000 + 4 * j)], resting [.read (0x10000 + 4 * j)],
        resting [.write (0x8000 + 4 * j) 0x04030201, .read (0x8000 + 4 * j)]],
        s.rst = false ∧ s.eng = .idle ∧ s.params.Legal ∧ 4 * j < s.params.inBytes ∧ 4 * j < s.params.outBytes ∧
        s.params.blockBase = 0) := by decide

/-- The first and the last descriptor, and a read after the write. -/
theorem witness_DescriptorWriteReadsBack :
    ∀ k ∈ [0, 63],
      let s := resting [.write (0x400 + 4 * k) 0x00050003, .read (0x400 + 4 * k)]
      s.rst = false ∧ s.eng = .idle ∧ s.params.Legal ∧ k < s.params.maxFrags ∧
      s.inputs = [.write (s.params.blockBase + 0x400 + 4 * k) 0x00050003, .read (s.params.blockBase + 0x400 + 4 * k)] := by
  decide

theorem witness_LowOffsetBitsAreIgnored : (3 < 4 ∧ 0x17FFC % 4 = 0 ∧ 0x17FFC < 0x18000) ∧ 0 % 4 = 0 := by decide

/-- An address on each side of the window. -/
theorem witness_OutsideWindowStops :
    let p : Params := { Params.default with blockBase := 0x1000 }
    0x0FFF < p.blockBase ∧ p.blockBase + 0x18000 ≤ 0x19000 := by decide

/-- A completion with IE = 1, and each write that lowers the interrupt. -/
theorem witness_InterruptFollowsDone :
    let r : State := { running [] with ie := true }
    (r.rst = false ∧ r.eng = .busy ∧ r.nextInput = .engine ∧ r.ie = true) ∧
    (∀ e ∈ [((0x028 : Nat), (2 : Word)), (0x024, 0), (0x020, 0), (0x020, 3)],
      (resting [.write e.1 e.2]).rst = false ∧ (resting [.write e.1 e.2]).eng = .idle ∧
      (resting [.write e.1 e.2]).inputs = [.write ((resting [.write e.1 e.2]).params.blockBase + e.1) e.2] ∧
      ((e.1 = 0x028 ∧ e.2.getLsbD 1 = true) ∨ e.1 = 0x024 ∨
        (e.1 = 0x020 ∧ (e.2.getLsbD 0 = false ∨ e.2.getLsbD 1 = true)))) ∧
    (resting [.assertRst]).inputs = [.assertRst] := by decide

/-! #### Commands -/

/-- A word of every opcode with its ignored fields set. -/
theorem witness_EncodedBy :
    ∀ op : Fin 13, ∀ b : Bool,
      let c : Word := BitVec.ofNat 32 (op.val + (if b then 0x100 else 0) + 0x001F0000)
      c.extractLsb' 0 8 = BitVec.ofNat 8 op.val ∧ c.getLsbD 8 = b ∧ c.extractLsb' 9 7 = 0 ∧ c.extractLsb' 21 11 = 0 := by
  decide

/-- BLEN at the buffer's size and one past it, a byte 32 behind a byte 31, and symbols only. -/
theorem witness_PolyRunFoldsOperand :
    (idle [] 0 4097 0).params.inBytes < (idle [] 0 4097 0).blen.toNat ∧
    (idle [31, 32] 0 2 0).blen.toNat ≤ (idle [31, 32] 0 2 0).params.inBytes ∧
    FirstBadSymbol (idle [31, 32] 0 2 0).textBytes 1 ∧
    (idle [0, 31] 0 2 0).blen.toNat ≤ (idle [0, 31] 0 2 0).params.inBytes ∧
    AllSymbols (idle [0, 31] 0 2 0).textBytes := by
  refine ⟨by decide, by decide, ⟨by decide, by decide, by decide⟩, by decide, ?_⟩
  show ∀ b ∈ (idle [0, 31] 0 2 0).textBytes, b.toNat ≤ 31
  decide

/-- ALEN one past the buffer's size, and expansions at OUT_BYTES' two sides. -/
theorem witness_HrpExpandWritesExpansion :
    (idle [] 4097 0 0).params.inBytes < (idle [] 4097 0 0).alen.toNat ∧
    ((idle [] 2048 0 0).alen.toNat ≤ (idle [] 2048 0 0).params.inBytes ∧
      (idle [] 2048 0 0).params.outBytes < 2 * (idle [] 2048 0 0).alen.toNat + 1) ∧
    (idle [] 2047 0 0).alen.toNat ≤ (idle [] 2047 0 0).params.inBytes ∧
    2 * (idle [] 2047 0 0).alen.toNat + 1 ≤ (idle [] 2047 0 0).params.outBytes := by decide

/-- The hypotheses that CHK.CREATE, CHK.VERIFY and B32.ENC share. -/
theorem witness_prefixed_operand :
    (idle [] 4096 1 0).params.inBytes < (idle [] 4096 1 0).alen.toNat + (idle [] 4096 1 0).blen.toNat ∧
    (idle [97, 31, 32] 1 2 0).alen.toNat + (idle [97, 31, 32] 1 2 0).blen.toNat ≤
      (idle [97, 31, 32] 1 2 0).params.inBytes ∧
    FirstBadSymbol (idle [97, 31, 32] 1 2 0).tailBytes 1 ∧
    (idle [97, 0, 31] 1 2 0).alen.toNat + (idle [97, 0, 31] 1 2 0).blen.toNat ≤
      (idle [97, 0, 31] 1 2 0).params.inBytes ∧
    AllSymbols (idle [97, 0, 31] 1 2 0).tailBytes := by
  refine ⟨by decide, by decide, ⟨by decide, by decide, by decide⟩, by decide, ?_⟩
  show ∀ b ∈ (idle [97, 0, 31] 1 2 0).tailBytes, b.toNat ≤ 31
  decide

theorem witness_ChkCreateMakesChecksum :
    let s := idle [97] 1 0 0
    s.alen.toNat + s.blen.toNat ≤ s.params.inBytes ∧ AllSymbols s.tailBytes ∧
    polymod (header s.hrpBytes ++ asSymbols s.tailBytes ++ [0, 0, 0, 0, 0, 0]) = 0x15CCFE9E ∧
    (0x2A330161 : Acc) = 0x15CCFE9E ^^^ target .bis :=
  ⟨by decide, fun _ (h : _ ∈ []) => absurd h List.not_mem_nil, by decide, by decide⟩

/-- A right and a wrong checksum. -/
theorem witness_ChkVerifyReportsChecksum :
    let s := idle [97, 10, 28, 25, 31, 20, 31] 1 6 0
    s.alen.toNat + s.blen.toNat ≤ s.params.inBytes ∧ (∀ b ∈ s.tailBytes, b.toNat ≤ 31) ∧
    polymod (header s.hrpBytes ++ asSymbols s.tailBytes) = 1 ∧ (1 : Acc) = target .origin ∧ (1 : Acc) ≠ target .bis := by
  decide

/-- A text of nine characters, and OUTBUF sizes on its two sides. -/
theorem witness_B32EncodeWritesText :
    let s := idle [97, 31] 1 1 0
    s.alen.toNat + s.blen.toNat ≤ s.params.inBytes ∧ (∀ b ∈ s.tailBytes, b.toNat ≤ 31) ∧
    createChecksum s.hrpBytes (asSymbols s.tailBytes) .origin =
      (createChecksum [97] [31] .origin) ∧
    9 ≤ s.params.outBytes ∧ ({ s.params with outBytes := 8 } : Params).outBytes < 9 := by decide


/-- A decoded text, a text that does not decode, and OUTBUF sizes on the two sides of the prefix and the symbols. -/
theorem witness_B32DecodeReportsText :
    let s := idle [0x61, 0x62, 0x63, 0x31, 0x70, 0x7A, 0x72, 0x6C, 0x6B, 0x63, 0x61, 0x74, 0x36] 0 13 0
    (idle [] 0 4097 0).params.inBytes < (idle [] 0 4097 0).blen.toNat ∧
    (idle [0x31] 0 1 0).blen.toNat ≤ (idle [0x31] 0 1 0).params.inBytes ∧
    bech32Decode (idle [0x31] 0 1 0).textBytes = .error ⟨.separatorPosition, 0⟩ ∧
    s.blen.toNat ≤ s.params.inBytes ∧
    bech32Decode s.textBytes = .ok ⟨bytes [97, 98, 99], [1, 2, 3], .origin⟩ ∧
    (bytes [97, 98, 99]).length + [1, 2, 3].length ≤ s.params.outBytes ∧
    ({ s.params with outBytes := 5 } : Params).outBytes < (bytes [97, 98, 99]).length + [1, 2, 3].length := by decide

/-- Five bytes, and OUTBUF sizes on the two sides of the text. -/
theorem witness_B32EncodeDataWritesText :
    let s := idle [0x44, 0xDE, 0xAD, 0xBE, 0xEF] 0 5 0
    (idle [] 0 4097 0).params.inBytes < (idle [] 0 4097 0).blen.toNat ∧
    s.blen.toNat ≤ s.params.inBytes ∧
    bech32Encode [] (pack8to5 s.textBytes) .bis = (bytes [0x67, 0x6E, 0x30, 0x32, 0x6D, 0x30, 0x68, 0x30, 0x30, 0x32,
      0x6B, 0x67, 0x63, 0x37], 0x1EAB231E) ∧
    14 ≤ s.params.outBytes ∧ ({ s.params with outBytes := 13 } : Params).outBytes < 14 := by decide

/-- A text with a payload, and one that does not decode. -/
theorem witness_B32DecodeDataReportsBytes :
    let s := idle [0x71, 0x71, 0x77, 0x6E, 0x66, 0x39, 0x35, 0x6A] 0 8 0
    s.blen.toNat ≤ s.params.inBytes ∧
    decodeData s.textBytes = .ok ([0], ⟨[], [0, 0], .bis⟩) ∧ 1 ≤ s.params.outBytes ∧
    ({ s.params with outBytes := 0 } : Params).outBytes < 1 ∧
    decodeData (idle [] 0 0 0).textBytes = .error ⟨.invalidChecksum, 0⟩ ∧
    (idle [] 0 4097 0).params.inBytes < (idle [] 0 4097 0).blen.toNat := by decide

/-- A fragment of four parts, and one that has no shape. -/
theorem witness_UrProbeReportsToken :
    let s := idle [0x2F, 0x31, 0x6F, 0x66, 0x33, 0x2F, 0x2F] 0 7 0
    s.blen.toNat ≤ s.params.inBytes ∧ probe s.textBytes = .ok ⟨1, 3, 4⟩ ∧
    probe (idle [] 0 0 0).textBytes = .error ⟨.malformedShape, 1, 0xFF, 0⟩ ∧
    (idle [] 0 4097 0).params.inBytes < (idle [] 0 4097 0).blen.toNat := by decide

/-- Two descriptors, the second one byte past the end of INBUF. -/
def twoDescriptors : State :=
  { idle [] 0 0 2 with
    mem := Memory.storeWord (Memory.storeWord [] descBase 0x00001000) (descBase + 4) 0x00011000 }

/-- The failures of the argument checks of UR.DEC. -/
theorem witness_UrDecodeReportsPayload_arguments :
    (idle [] 4097 0 0).params.inBytes < (idle [] 4097 0 0).alen.toNat ∧
    ((idle [] 0 0 65).alen.toNat ≤ (idle [] 0 0 65).params.inBytes ∧
      (idle [] 0 0 65).params.maxFrags < (idle [] 0 0 65).fcount.toNat) ∧
    twoDescriptors.fcount.toNat ≤ twoDescriptors.params.maxFrags ∧ 1 < twoDescriptors.fcount.toNat ∧
    twoDescriptors.params.inBytes < twoDescriptors.descOff 1 + twoDescriptors.descLen 1 ∧
    ∀ j, j < 1 → twoDescriptors.descOff j + twoDescriptors.descLen j ≤ twoDescriptors.params.inBytes := by decide

/-- A set that does not decode. -/
theorem witness_UrDecodeReportsPayload_error :
    urDecode sha256 8192 defaultType ((List.range 0).map (fun k => (idle [] 0 0 0).fragment k)) =
      .error ⟨.emptySet, 0, 0xFF, 0⟩ := by decide

/-- A set that does, and OUTBUF sizes on the two sides of its payload. -/
theorem witness_UrDecodeReportsPayload :
    let s := oneFragment [0x75, 0x72, 0x3A, 0x62, 0x79, 0x74, 0x65, 0x73, 0x2F, 0x71, 0x71, 0x77, 0x6E, 0x66, 0x39,
      0x35, 0x6A]
    s.alen.toNat ≤ s.params.inBytes ∧ s.fcount.toNat ≤ s.params.maxFrags ∧
    (∀ k, k < s.fcount.toNat → s.descOff k + s.descLen k ≤ s.params.inBytes) ∧
    urDecode sha256 s.params.scratchBytes defaultType
      ((List.range s.fcount.toNat).map (fun k => s.inRead (s.descOff k) (s.descLen k))) = .ok ⟨[0], 1, 0, 8⟩ ∧
    1 ≤ s.params.outBytes ∧ ({ s.params with outBytes := 0 } : Params).outBytes < 1 := by decide

/-! #### Pure functions -/

theorem witness_ShortBisSequencesFail : ([1, 2, 3, 4, 5] : List Symbol).length < 6 := by decide

/-- `szs95e` with its last symbol changed. -/
theorem witness_SingleSymbolErrorIsDetected :
    (25 : Symbol) ≠ 24 ∧ (verifyChecksum [] ([16, 2, 16, 5, 20] ++ 25 :: []) .bis).1 = true := by decide

theorem witness_ValInvertsSym : val 0x71 = some 0 ∧ (∀ x : Symbol, sym x ≠ 0x31) := by decide

/-- A text for each check of the decoder, the first of two failures deciding. -/
theorem witness_DecoderChecksInOrder :
    FirstIndex (fun b => b.toNat < 33 ∨ 126 < b.toNat) (bytes [33, 126, 127, 32]) 2 ∧
    (AllInRange (bytes [97, 65]) ∧ MixedCase (bytes [97, 65])) ∧
    (∀ t ∈ [bytes [0x31, 0x71, 0x71, 0x71, 0x71, 0x71, 0x71], bytes [0x61, 0x31, 0x71, 0x71, 0x71, 0x71, 0x71],
      bytes [0x61, 0x31, 0x62, 0x71, 0x71, 0x71, 0x71, 0x71], bytes [0x61, 0x31, 0x32, 0x75, 0x65, 0x6C, 0x35, 0x6C],
      List.replicate 91 97 ++ bytes [0x31, 0x71, 0x71, 0x71, 0x71, 0x71, 0x71],
      bytes [0x73, 0x7A, 0x73, 0x39, 0x35, 0x65]], PlainText t) ∧
    LastSeparator (bytes [0x31, 0x71, 0x71, 0x71, 0x71, 0x71, 0x71]) 0 ∧
    LastSeparator (bytes [0x61, 0x31, 0x71, 0x71, 0x71, 0x71, 0x71]) 1 ∧
    LastSeparator (List.replicate 91 97 ++ bytes [0x31, 0x71, 0x71, 0x71, 0x71, 0x71, 0x71]) 91 ∧
    (LastSeparator (bytes [0x61, 0x31, 0x62, 0x71, 0x71, 0x71, 0x71, 0x71]) 1 ∧
      FirstIndex NotInAlphabet ((bytes [0x61, 0x31, 0x62, 0x71, 0x71, 0x71, 0x71, 0x71]).drop 2) 0) ∧
    (LastSeparator (bytes [0x61, 0x31, 0x32, 0x75, 0x65, 0x6C, 0x35, 0x6C]) 1 ∧
      SymbolsOf ((bytes [0x61, 0x31, 0x32, 0x75, 0x65, 0x6C, 0x35, 0x6C]).drop 2) [10, 28, 25, 31, 20, 31] ∧
      polymod (header (((bytes [0x61, 0x31, 0x32, 0x75, 0x65, 0x6C, 0x35, 0x6C]).take 1).map lower) ++ [10, 28, 25,
        31, 20, 31]) = 1) ∧
    ((0x31#8 ∉ bytes [0x73, 0x7A, 0x73, 0x39, 0x35, 0x65]) ∧
      SymbolsOf (bytes [0x73, 0x7A, 0x73, 0x39, 0x35, 0x65]) [16, 2, 16, 5, 20, 25] ∧
      polymod (0 :: [16, 2, 16, 5, 20, 25]) = 0x3fffffff ∧ polymod [0] ≠ 0x3fffffff) ∧
    FirstIndex NotInAlphabet (bytes [0x71, 0x62]) 1 := by
  refine ⟨⟨by decide, by decide, by decide⟩, ⟨by unfold AllInRange; decide, by unfold MixedCase; decide⟩, ?_,
    ⟨by decide, by decide, by decide⟩, ⟨by decide, by decide, by decide⟩, ⟨by decide, by decide, by decide⟩,
    ⟨⟨by decide, by decide, by decide⟩, by decide, ?_, fun _ h => absurd h (Nat.not_lt_zero _)⟩,
    ⟨⟨by decide, by decide, by decide⟩, by unfold SymbolsOf; decide, by decide⟩,
    ⟨by decide, by unfold SymbolsOf; decide, by decide, by decide⟩, by decide, ?_, ?_⟩
  · unfold PlainText AllInRange MixedCase
    decide
  · unfold NotInAlphabet
    decide
  · unfold NotInAlphabet
    decide
  · intro j hj h
    obtain rfl : j = 0 := by omega
    exact h 0 (by show sym 0 = lower 0x71; decide)

/-- Each reason to fail, and a sequence with none. -/
theorem witness_UnpackFailsExactlyOnBadPadding :
    [0].length % 8 = 1 ∧ [0, 0, 0].length % 8 = 3 ∧ [0, 0, 0, 0, 0, 0].length % 8 = 6 ∧
    (∃ x ∈ ([31, 31] : List Symbol).getLast?, x.toNat % 2 ^ (5 * 2 % 8) ≠ 0) ∧
    ¬ ∃ x ∈ ([31, 28] : List Symbol).getLast?, x.toNat % 2 ^ (5 * 2 % 8) ≠ 0 := by decide

/-- A one-byte prefix with the longest data that fits 90 characters. -/
theorem witness_OriginTextRoundTrips :
    (∀ b ∈ bytes [0x61], 33 ≤ b.toNat ∧ b.toNat ≤ 126) ∧ (∀ b ∈ bytes [0x61], ¬ (65 ≤ b.toNat ∧ b.toNat ≤ 90)) ∧
    1 ≤ (bytes [0x61]).length ∧
    (bytes [0x61]).length + 1 + (List.replicate 82 (0 : Symbol)).length + 6 ≤ 90 := by decide

/-- Tokens at the largest value and one past it, and a token without the grammar. -/
theorem witness_SequencingTokenGrammar :
    (SeqToken (bytes [0x31, 0x4F, 0x66, 0x34, 0x32, 0x39, 0x34, 0x39, 0x36, 0x37, 0x32, 0x39,
      0x35]) (bytes [0x31]) (bytes [0x34, 0x32, 0x39, 0x34, 0x39, 0x36, 0x37, 0x32, 0x39, 0x35]) ∧
      decimalValue (bytes [0x34, 0x32, 0x39, 0x34, 0x39, 0x36, 0x37, 0x32, 0x39, 0x35]) ≤ 0xFFFFFFFF) ∧
    (SeqToken (bytes [0x34, 0x32, 0x39, 0x34, 0x39, 0x36, 0x37, 0x32, 0x39, 0x36, 0x6F, 0x66, 0x31]) (bytes [0x34,
      0x32, 0x39, 0x34, 0x39, 0x36, 0x37, 0x32, 0x39, 0x36]) (bytes [0x31]) ∧
      0xFFFFFFFF < decimalValue (bytes [0x34, 0x32, 0x39, 0x34, 0x39, 0x36, 0x37, 0x32, 0x39, 0x36])) ∧
    ∀ a b, ¬ SeqToken [] a b := by
  refine ⟨⟨⟨0x4F, 0x66, by decide, by decide, ?_, ?_, by decide⟩, by decide⟩,
    ⟨⟨0x6F, 0x66, by decide, by decide, ?_, ?_, by decide⟩, by decide⟩, ?_⟩
  · unfold Digits; decide
  · unfold Digits; decide
  · unfold Digits; decide
  · unfold Digits; decide
  · rintro a b ⟨o, f, -, -, -, -, h⟩
    simp at h

/-- Every part count's case, and both ends of the index range. -/
theorem witness_ProbeFollowsPartCount :
    (bytes [0x75, 0x2F, 0x78]).count 0x2F = 1 ∧ (bytes [0x75, 0x2F, 0x78, 0x2F, 0x79]).count 0x2F = 2 ∧
    (bytes [0x75]).count 0x2F < 1 ∧ 3 < (bytes [0x2F, 0x2F, 0x2F, 0x2F]).count 0x2F ∧
    (∀ p ∈ [bytes [0x75], bytes [0x33, 0x6F, 0x66, 0x33], [], []], 0x2F#8 ∉ p) ∧
    bytes [0x75, 0x2F, 0x33, 0x6F, 0x66, 0x33, 0x2F, 0x2F] =
      bytes [0x75] ++ [0x2F] ++ bytes [0x33, 0x6F, 0x66, 0x33] ++ [0x2F] ++ [] ++ [0x2F] ++ [] ∧
    parseSeq (bytes [0x33, 0x6F, 0x66, 0x33]) = .ok (3, 3) ∧ parseSeq (bytes [0x34, 0x6F, 0x66, 0x33]) = .ok (4, 3) ∧
    parseSeq [] = .error ⟨.invalidSequencing, 1⟩ := by decide

/-- The set of section 5 decodes: the hypotheses of DecodedIndicesArePermutation and DecodedSetMatchesItsDigest. -/
theorem witness_decoded_set :
    2 ≤ fragmentSet.length ∧
    urDecode sha256 8192 defaultType fragmentSet = .ok ⟨bytes [0x49, 1, 2, 3, 4, 5, 6, 7, 8, 9], 3, 1, 22⟩ :=
  ⟨by decide, test_urDec_three⟩

theorem witness_FragmentOrderIsIrrelevant : 2 ≤ fragmentSet.length ∧ fragmentSet.Perm fragmentSet.reverse :=
  ⟨by decide, (List.reverse_perm _).symm⟩

/-- The host's fragments of P2 at capacity 10, for a hash of 32 bytes. -/
theorem witness_HostFragmentsDecode :
    let sha : List Byte → List Byte := fun _ => List.replicate 32 7
    let framed := bytes [0x49, 1, 2, 3, 4, 5, 6, 7, 8, 9]
    (∀ b, (sha b).length = 32) ∧ 1 ≤ 10 ∧ (0x2F#8 ∉ defaultType) ∧
    (hostFragments sha defaultType framed 10).length = 3 ∧ (encodeData framed).1.length ≤ 8192 :=
  ⟨fun _ => rfl, by decide, by decide, by decide, by decide⟩

/-- The host's fragments are the spec's, in order. -/
theorem test_hostFragments :
    hostFragments sha256 defaultType (bytes [0x49, 1, 2, 3, 4, 5, 6, 7, 8, 9]) 10 = fragmentSet.reverse := by decide

end Sys2Proof.Tests
end

section
/-! The reset state. A state whose registers stand in the reset column of 10_state.md R45 owes the invariant nothing but
its parameters and its memory (`State.AtReset.inv`); O12 is that rule at `State.reset`. -/

namespace Sys2Proof.Machine

open Sys2Proof.Config

/-- The defaults of 00_scope.md R6 are legal. -/
theorem Params.default_legal : Params.default.Legal := by decide

/-- 0, the ERRCODE of no error, is among the produced codes. -/
theorem zero_mem_producedCodes : (0 : BitVec 8) ∈ producedCodes := by decide

/-- Registers at reset (10_state.md R45), whatever the level of `rst`: there is no command in flight, no error, and no
output, so only the parameters and the memory are left to check. -/
theorem State.AtReset.inv {s : State} (h : s.AtReset) (legal : s.params.Legal) (canonical : Memory.wf s.mem = true)
    (mapped : ∀ c ∈ s.mem, byteMapped s.params c.1) : s.Inv where
  legal := legal
  canonical := canonical
  mapped := mapped
  inFlight := fun busy => by simp [h.eng] at busy
  produced := h.errcode ▸ zero_mem_producedCodes
  noError := fun _ => h.errInfo
  noPartial := fun err => absurd h.errcode err
  outFits := by simp [h.outLen]
  outValid := fun i hi => by simp [h.outLen] at hi
  held := fun _ => h

/-- `State.reset` has the hard reset column of 10_state.md R45 in its registers. -/
theorem State.reset_atReset : State.reset.AtReset := by constructor <;> rfl

/-- `State.reset` lists no byte: INBUF, DESC and OUTBUF are unspecified after hard reset (10_state.md R38 to R40). -/
theorem State.reset_mem : State.reset.mem = [] := rfl

/-- Settles O12: the registers stand at reset, the parameters are the defaults, and no byte is listed. -/
theorem resetStateIsGood : Obligations.ResetStateIsGood :=
  State.reset_atReset.inv Params.default_legal
    (canonical := by rw [State.reset_mem]; rfl)
    (mapped := by simp [State.reset_mem])

end Sys2Proof.Machine
end

section
/-! What a command ends with: one statement for all sixteen commands that also says which of them write ACC and which of
them keep OUTBUF, and what follows of their frame, of ACC and of OUTBUF behind the output. -/

namespace Sys2Proof.Machine

open Sys2Proof.Config

/-- Where a command `i` that began in `s` can end. It refines `exec_cases` by what depends on the command: only NOP ends
without a new draw of OUTBUF (40_command_engine.md R97; log 17), and ACC moves only where 10_state.md R35 lets it. -/
inductive CommandEnd (i : Instr) (s : State) : State → Prop where
  /-- An error completion (60_exceptions.md R203). -/
  | failed (e : CmdError) : CommandEnd i s (raiseError e s)
  /-- NOP. -/
  | nothing (h : i = .nop) : CommandEnd i s (complete s)
  /-- A command without output. -/
  | registers (a : Acc) (r0 r1 r2 : Word) (h : writesAcc i = false → a = s.acc) :
      CommandEnd i s (complete { s.spoilOut with acc := a, res0 := r0, res1 := r1, res2 := r2 })
  /-- A command with output. -/
  | output (x : List Byte) (r0 r1 r2 : Word) (h : x.length ≤ max 6 s.params.outBytes) :
      CommandEnd i s (complete ((s.outWrite x).results r0 r1 r2))

/-- CHK_CREATE of either variant ends with the six symbols as its output. -/
theorem commandEnd_chkCreate {i : Instr} {v : Variant} {s t : State} (h : chkCreate v s = .next t) :
    CommandEnd i s t := by
  rcases chkCreate_cases h with ⟨e, rfl⟩ | ⟨-, -, rfl⟩
  · exact .failed e
  · exact .output _ _ _ _ (by simp [symbolBytes])

/-- CHK_VERIFY of either variant has no output and leaves ACC alone. -/
theorem commandEnd_chkVerify {i : Instr} {v : Variant} {s t : State} (h : chkVerify v s = .next t) :
    CommandEnd i s t := by
  rcases chkVerify_cases h with ⟨e, rfl⟩ | ⟨-, -, rfl⟩
  · exact .failed e
  · exact .registers s.acc _ _ _ fun _ => rfl

/-- B32_ENCODE of either variant ends with a text that fits OUTBUF. -/
theorem commandEnd_b32Encode {i : Instr} {v : Variant} {s t : State} (h : b32Encode v s = .next t) :
    CommandEnd i s t := by
  rcases b32Encode_cases h with ⟨e, rfl⟩ | ⟨-, -, fits, rfl⟩
  · exact .failed e
  · exact .output _ _ _ _ (le_max_of_le_right fits)

/-- Every command that answers a next state ends in one of the four ways. -/
theorem exec_commandEnd {i : Instr} {s t : State} (h : exec i s = .next t) : CommandEnd i s t := by
  cases i with
  | nop => cases h; exact .nothing rfl
  | polyInit => cases h; exact .registers 1 s.res0 s.res1 s.res2 nofun
  | polyStep n => cases h; exact .registers _ s.res0 s.res1 s.res2 nofun
  | polyRun =>
    rcases execPolyRun_cases h with ⟨e, rfl⟩ | ⟨-, -, rfl⟩
    · exact .failed e
    · exact .registers _ s.res0 s.res1 s.res2 nofun
  | hrpExpand =>
    rcases execHrpExpand_cases h with ⟨e, rfl⟩ | ⟨-, fits, rfl⟩
    · exact .failed e
    · exact .output _ s.res0 s.res1 s.res2 (le_max_of_le_right fits)
  | chkCreateO => exact commandEnd_chkCreate h
  | chkCreateB => exact commandEnd_chkCreate h
  | chkVerifyO => exact commandEnd_chkVerify h
  | chkVerifyB => exact commandEnd_chkVerify h
  | b32EncO => exact commandEnd_b32Encode h
  | b32EncB => exact commandEnd_b32Encode h
  | b32Dec =>
    rcases execB32Dec_cases h with ⟨e, rfl⟩ | ⟨_, -, -, fits, rfl⟩
    · exact .failed e
    · exact .output _ _ _ _ (le_max_of_le_right fits)
  | b32Encd =>
    rcases execB32Encd_cases h with ⟨e, rfl⟩ | ⟨-, fits, rfl⟩
    · exact .failed e
    · exact .output _ _ _ _ (le_max_of_le_right fits)
  | b32Decd =>
    rcases execB32Decd_cases h with ⟨e, rfl⟩ | ⟨_, _, -, -, fits, rfl⟩
    · exact .failed e
    · exact .output _ _ _ _ (le_max_of_le_right fits)
  | urProbe =>
    rcases execUrProbe_cases h with ⟨e, rfl⟩ | ⟨_, -, -, rfl⟩
    · exact .failed e
    · exact .registers s.acc _ _ _ fun _ => rfl
  | urDec =>
    rcases execUrDec_cases h with ⟨e, rfl⟩ | ⟨_, -, -, -, -, fits, rfl⟩
    · exact .failed e
    · exact .output _ _ _ _ (le_max_of_le_right fits)

/-- Either end keeps what no command writes: an error writes OUTBUF and the status only, and a completed work its results
besides. -/
theorem commandFrame_of_work {s t : State} (h : (∃ e, t = raiseError e s) ∨ ∃ u, Work s u ∧ t = complete u) :
    CommandFrame s t := by
  rcases h with ⟨e, rfl⟩ | ⟨u, work, rfl⟩
  · exact commandFrame_raiseError e s
  · exact work.frame.complete

/-- Settles O9. -/
theorem commandsKeepInputs : Obligations.CommandsKeepInputs :=
  fun _ _ _ h => commandFrame_of_work (exec_cases h)

/-- Settles O10: of the four ends only that of a command without output writes ACC, and there the command decides. -/
theorem onlyPolyCommandsWriteAcc : Obligations.OnlyPolyCommandsWriteAcc := by
  intro i s t keepsAcc h
  cases exec_commandEnd h with
  | failed e => rfl
  | nothing _ => rfl
  | registers a r0 r1 r2 ha => exact ha keepsAcc
  | output x r0 r1 r2 _ => rfl

/-- OUTBUF made unspecified reads as its free bytes at every index. -/
theorem outByteAt_spoilOut (s : State) (j : Nat) : s.spoilOut.outByteAt j = outByte (s.outDraw + 1) (outBase + j) :=
  s.byteAt_spoilOut_out (Nat.le_add_right outBase j)

/-- An output that a legal block can hold has a length that OUT_LEN's 16 bits hold (10_state.md R34). -/
theorem toNat_ofNat_length {p : Params} (legal : p.Legal) {x : List Byte} (fits : x.length ≤ max 6 p.outBytes) :
    (BitVec.ofNat 16 x.length).toNat = x.length := by
  obtain ⟨-, ⟨-, -, outMax⟩, -, -⟩ := legal
  rw [BitVec.toNat_ofNat]
  omega

/-- Settles O11: a command without output and an error spoil all of OUTBUF; an output fits OUT_LEN, so what lies from
OUT_LEN on lies behind the output. -/
theorem outputBeyondOutLenIsUnspecified : Obligations.OutputBeyondOutLenIsUnspecified := by
  intro i s t legal notNop h
  cases exec_commandEnd h with
  | failed e => exact ⟨rfl, fun j _ => (State.byteAt_congr rfl rfl rfl _).trans (outByteAt_spoilOut s j)⟩
  | nothing isNop => exact absurd isNop notNop
  | registers a r0 r1 r2 _ => exact ⟨rfl, fun j _ => (State.byteAt_congr rfl rfl rfl _).trans (outByteAt_spoilOut s j)⟩
  | output x r0 r1 r2 fits =>
    refine ⟨rfl, fun j hj => ?_⟩
    have behind : x.length ≤ j := (toNat_ofNat_length legal fits).symm.trans_le hj
    exact (State.byteAt_congr rfl rfl rfl _).trans (s.outByteAt_outWrite_rest x behind)

end Sys2Proof.Machine
end

section
/-! What a step of any kind keeps: the parameters always, and HAZ but for the three events of 10_state.md R28. Each lemma
speaks of one of the operations that `step_cases` names. -/

namespace Sys2Proof.Machine

open Sys2Proof.Config

/-- The engine's turn keeps what every command keeps: it does nothing, or completes a word, legal or not. -/
theorem engineTurn_frame {s t : State} (h : engineTurn s = .next t) : CommandFrame s t := by
  rcases engineTurn_cases h with rfl | ⟨-, -, completes⟩
  · exact .refl t
  · exact commandFrame_of_work (completion_work completes)

/-- No host read changes the parameters. -/
@[simp] theorem hostRead_params (l : Loc) (s : State) : (hostRead l s).params = s.params := by
  rcases hostRead_cases l s with ⟨w, h⟩ | ⟨mask, h⟩ <;> rw [h] <;> rfl

/-- No host read changes HAZ (70_reset_and_hazards.md R235). -/
@[simp] theorem hostRead_haz (l : Loc) (s : State) : (hostRead l s).haz = s.haz := by
  rcases hostRead_cases l s with ⟨w, h⟩ | ⟨mask, h⟩ <;> rw [h] <;> rfl

/-- No write while IDLE changes the parameters. -/
@[simp] theorem idleWrite_params (l : Loc) (v : Word) (s : State) : (idleWrite l v s).params = s.params := by
  cases l with
  | reg r => cases r <;> rfl
  | _ => rfl

/-- A write while IDLE changes HAZ at STATUS only. -/
theorem idleWrite_haz {l : Loc} (h : l ≠ .reg .status) (v : Word) (s : State) : (idleWrite l v s).haz = s.haz := by
  cases l with
  | reg r =>
    cases r with
    | status => exact absurd rfl h
    | _ => rfl
  | _ => rfl

/-- No host write changes the parameters. -/
@[simp] theorem hostWrite_params (l : Loc) (v : Word) (s : State) : (hostWrite l v s).params = s.params := by
  rcases hostWrite_cases l v s with h | ⟨-, -, h⟩ | ⟨-, -, h⟩ | ⟨-, -, h⟩ <;> simp [h]

/-- A soft reset is a write of CTRL with SRST set (10_state.md R26). -/
theorem isSoftReset_iff {l : Loc} {v : Word} : isSoftReset l v = true ↔ l = .reg .ctrl ∧ v.getLsbD 1 = true := by
  cases l with
  | reg r => cases r <;> simp [isSoftReset]
  | _ => simp [isSoftReset]

/-- A host write that clears HAZ is a STATUS write of bit 3 while IDLE, or a soft reset. -/
theorem hostWrite_clears_haz {l : Loc} {v : Word} {s : State} (was : s.haz = true)
    (cleared : (hostWrite l v s).haz = false) :
    s.rst = false ∧ ((l = .reg .status ∧ s.eng = .idle ∧ v.getLsbD 3 = true) ∨ (l = .reg .ctrl ∧ v.getLsbD 1 = true)) := by
  rcases hostWrite_cases l v s with h | ⟨rst, soft, -⟩ | ⟨rst, idle, h⟩ | ⟨-, -, h⟩
  · simp [h, was] at cleared
  · exact ⟨rst, .inr (isSoftReset_iff.1 soft)⟩
  · rw [h] at cleared
    by_cases status : l = .reg .status
    · subst status
      exact ⟨rst, .inl ⟨rfl, idle, by simpa [idleWrite, idleWriteReg, was] using cleared⟩⟩
    · simp [idleWrite_haz status, was] at cleared
  · simp [h] at cleared

/-- Settles O14. -/
theorem stepKeepsParameters : Obligations.StepKeepsParameters := by
  intro s t h
  rcases step_cases h with ⟨-, turn⟩ | ⟨_, l, -, -, rfl⟩ | ⟨_, v, l, -, -, rfl⟩ | ⟨-, rfl⟩ | ⟨-, rfl⟩
  · exact (engineTurn_frame turn).params
  · exact hostRead_params l s.popInput
  · exact hostWrite_params l v s.popInput
  · rfl
  · rfl

/-- Settles O21: of the five events, the engine's turn, a read and the fall of `rst` keep HAZ, and a write clears it in
two ways only. -/
theorem hazIsSticky : Obligations.HazIsSticky := by
  intro s t h was cleared
  rcases step_cases h with ⟨-, turn⟩ | ⟨_, l, -, -, rfl⟩ | ⟨addr, v, l, next, loc, rfl⟩ | ⟨rise, -⟩ | ⟨-, rfl⟩
  · simp [(engineTurn_frame turn).haz, was] at cleared
  · simp [was] at cleared
  · obtain ⟨rst, how⟩ := hostWrite_clears_haz (s := s.popInput) was cleared
    refine .inr ⟨addr, v, next, rst, ?_⟩
    rw [loc]
    simpa using how
  · exact .inl rise
  · simp [was] at cleared

end Sys2Proof.Machine
end

section
/-! Host accesses by window offset: what a read answers and what a write does while IDLE, at a register and at a
descriptor, and that an access outside the window stops. -/

namespace Sys2Proof.Machine

open Sys2Proof.Config

/-- The window offset of a register (10_state.md R20); `locate_reg` ties it to the map. -/
def regOffset (r : Reg) : Nat :=
  match r with
  | .id => 0x000
  | .caps => 0x004
  | .insize => 0x008
  | .outsize => 0x00C
  | .scrsize => 0x010
  | .ctrl => 0x020
  | .cmd => 0x024
  | .status => 0x028
  | .errInfo => 0x02C
  | .alen => 0x030
  | .blen => 0x034
  | .fcount => 0x038
  | .outLen => 0x03C
  | .acc => 0x040
  | .res0 => 0x044
  | .res1 => 0x048
  | .res2 => 0x04C

/-- A register's offset names the register, whatever the parameters. -/
theorem locate_reg (p : Params) (r : Reg) : locate p (regOffset r) = some (.reg r) := by
  cases r <;> rfl

/-- A register seen from the bus. -/
theorem locateBus_reg (p : Params) (r : Reg) : locateBus p (p.blockBase + regOffset r) = some (.reg r) :=
  (locateBus_base p _).trans (locate_reg p r)

/-- A descriptor seen from the bus; a legal block has fewer of them than the window has room for (R6, R20). -/
theorem locateBus_desc {p : Params} (legal : p.Legal) {k : Nat} (hk : k < p.maxFrags) :
    locateBus p (p.blockBase + 0x400 + 4 * k) = some (.desc k) := by
  obtain ⟨-, -, -, -, most⟩ := legal
  rw [Nat.add_assoc, locateBus_base, locate_desc p hk (by omega)]

/-- No address outside the window names a location (R20). -/
theorem locateBus_outside {p : Params} {addr : Nat} (h : addr < p.blockBase ∨ p.blockBase + 0x18000 ≤ addr) :
    locateBus p addr = none := by
  rcases h with below | past
  · exact locateBus_below p below
  · obtain ⟨beyond, rfl⟩ := Nat.exists_eq_add_of_le past
    rw [Nat.add_assoc, locateBus_base]
    exact locate_eq_none p (Nat.le_add_right windowEnd beyond)

/-! ### The step of an access -/

/-- What a location holds does not depend on the pending input or on the bus answer. -/
theorem readLoc_bus (s : State) (rest : List Input) (w : Option Word) (l : Loc) :
    readLoc { s with inputs := rest, answer := w } l = readLoc s l := by
  cases l with
  | reg r => cases r <;> rfl
  | _ => rfl

/-- A read while IDLE answers what the location holds and has no other effect (20_memory.md R56). -/
theorem step_read_idle {s : State} {addr : Nat} {rest : List Input} {l : Loc} (rst : s.rst = false)
    (idle : s.eng = .idle) (h : s.inputs = .read addr :: rest) (loc : locateBus s.params addr = some l) :
    step s = .next { s with inputs := rest, answer := some (readLoc s l) } := by
  rw [step_read h loc, ← readLoc_bus s rest none]
  simp [hostRead, rst, idle, answerWith]

/-- A write while IDLE does what the location does with it, a soft reset apart. -/
theorem step_write_idle {s : State} {addr : Nat} {v : Word} {rest : List Input} {l : Loc} (rst : s.rst = false)
    (idle : s.eng = .idle) (h : s.inputs = .write addr v :: rest) (loc : locateBus s.params addr = some l)
    (plain : isSoftReset l v = false) :
    step s = .next (idleWrite l v { s with inputs := rest, answer := none }) := by
  rw [step_write h loc]
  simp [hostWrite, rst, idle, plain]

/-- A write while BUSY is at most a hazard write, a soft reset apart (70_reset_and_hazards.md R236). -/
theorem step_write_busy {s : State} {addr : Nat} {v : Word} {rest : List Input} {l : Loc} (rst : s.rst = false)
    (busy : s.eng = .busy) (h : s.inputs = .write addr v :: rest) (loc : locateBus s.params addr = some l)
    (plain : isSoftReset l v = false) :
    step s = .next (busyWrite l { s with inputs := rest, answer := none }) := by
  rw [step_write h loc]
  simp [hostWrite, rst, busy, plain]

/-- Settles O28. -/
theorem outsideWindowStops : Obligations.OutsideWindowStops := by
  intro s addr v rest outside
  have nowhere := locateBus_outside outside
  constructor
  · rw [step_cons rfl]
    simp [deliver, nowhere]
  · rw [step_cons rfl]
    simp [deliver, nowhere]

/-! ### The words of the registers -/

/-- The fields of STATUS while IDLE, when BUSY reads 0 (10_state.md R28). -/
theorem statusWord_idle {s : State} (idle : s.eng = .idle) :
    s.statusWord = 0#16 ++ s.errcode ++ 0#4 ++ BitVec.ofBool s.haz ++ BitVec.ofBool (s.errcode != 0) ++
      BitVec.ofBool s.done ++ 0#1 := by
  have notBusy : s.busy = false := by rw [State.busy, idle]
  rw [State.statusWord, notBusy, State.err]
  rfl

/-- CTRL reads IE in its bit 0 (R26). -/
theorem ctrlWord_eq (s : State) : s.ctrlWord = if s.ie then 1#32 else 0#32 := by
  rw [State.ctrlWord]
  cases s.ie <;> rfl

/-- Settles O18: each of the seventeen offsets is a register's, and the word listed with it is what the register
holds. -/
theorem idleReadAnswersRegister : Obligations.IdleReadAnswersRegister := by
  intro s off w rest rst idle next listed
  suffices held : ∃ r, off = regOffset r ∧ w = readReg s r by
    obtain ⟨r, rfl, rfl⟩ := held
    exact step_read_idle rst idle next (locateBus_reg s.params r)
  simp only [List.mem_cons, Prod.mk.injEq, List.not_mem_nil, or_false] at listed
  rcases listed with h | h | h | h | h | h | h | h | h | h | h | h | h | h | h | h | h <;> obtain ⟨rfl, rfl⟩ := h
  · exact ⟨.id, rfl, rfl⟩
  · exact ⟨.caps, rfl, rfl⟩
  · exact ⟨.insize, rfl, rfl⟩
  · exact ⟨.outsize, rfl, rfl⟩
  · exact ⟨.scrsize, rfl, rfl⟩
  · exact ⟨.ctrl, rfl, (ctrlWord_eq s).symm⟩
  · exact ⟨.cmd, rfl, rfl⟩
  · exact ⟨.status, rfl, (statusWord_idle idle).symm⟩
  · exact ⟨.errInfo, rfl, rfl⟩
  · exact ⟨.alen, rfl, (BitVec.setWidth_eq_append (by decide)).symm⟩
  · exact ⟨.blen, rfl, (BitVec.setWidth_eq_append (by decide)).symm⟩
  · exact ⟨.fcount, rfl, (BitVec.setWidth_eq_append (by decide)).symm⟩
  · exact ⟨.outLen, rfl, (BitVec.setWidth_eq_append (by decide)).symm⟩
  · exact ⟨.acc, rfl, (BitVec.setWidth_eq_append (by decide)).symm⟩
  · exact ⟨.res0, rfl, rfl⟩
  · exact ⟨.res1, rfl, rfl⟩
  · exact ⟨.res2, rfl, rfl⟩

/-- Settles O23: each offset is its register's, and the low bits are the truncation that the register stores. -/
theorem idleWriteStoresRegister : Obligations.IdleWriteStoresRegister := by
  intro s off v rest rst idle next
  have stores (r : Reg) (offset : off = regOffset r) (plain : isSoftReset (.reg r) v = false) :
      step s = .next (idleWriteReg r v { s with inputs := rest, answer := none }) := by
    subst offset
    exact step_write_idle rst idle next (locateBus_reg s.params r) plain
  refine ⟨?ctrl, ?alen, ?blen, ?fcount, ?acc⟩
  case ctrl =>
    intro offset plain
    exact stores .ctrl offset plain
  case alen =>
    intro offset
    rw [← BitVec.setWidth_eq_extractLsb' (by decide)]
    exact stores .alen offset rfl
  case blen =>
    intro offset
    rw [← BitVec.setWidth_eq_extractLsb' (by decide)]
    exact stores .blen offset rfl
  case fcount =>
    intro offset
    rw [← BitVec.setWidth_eq_extractLsb' (by decide)]
    exact stores .fcount offset rfl
  case acc =>
    intro offset
    rw [← BitVec.setWidth_eq_extractLsb' (by decide)]
    exact stores .acc offset rfl

/-- Settles O24: while IDLE the write is `clearStatus`, while BUSY it is hazardous. -/
theorem statusWriteClears : Obligations.StatusWriteClears := by
  intro s v rest rst next
  have loc := locateBus_reg s.params .status
  constructor
  · intro idle
    have written : step s = .next (State.clearStatus { s with inputs := rest, answer := none } v) :=
      step_write_idle rst idle next loc rfl
    refine ⟨_, written, rfl, ?_⟩
    simp +contextual [clearStatus_done, clearStatus_haz]
  · intro busy
    exact step_write_busy rst busy next loc rfl

/-! ### Descriptors -/

/-- A word store leaves every byte outside its word alone. -/
theorem byteAt_storeWord_outside (s : State) (a : Nat) (v : Word) {c : Nat} (h : c < a ∨ a + 4 ≤ c) :
    (s.storeWord a v).byteAt c = s.byteAt c := by
  rw [State.byteAt_storeWord, if_neg (by omega), if_neg (by omega), if_neg (by omega), if_neg (by omega)]

/-- A descriptor holds the word stored in it. -/
theorem descWord_storeWord (s : State) (k : Nat) (v : Word) : (s.storeWord (descBase + 4 * k) v).descWord k = v :=
  s.wordAt_storeWord _ v

/-- Settles O26: the write is a word store at the descriptor, and the read after it answers what `readLoc` finds there. -/
theorem descriptorWriteReadsBack : Obligations.DescriptorWriteReadsBack := by
  intro s k v rest rst idle legal hk next
  have loc := locateBus_desc legal hk
  have holds := descWord_storeWord { s with inputs := rest, answer := none } k v
  refine ⟨_, step_write_idle rst idle next loc rfl, rfl, holds, ?off, ?len, ?frame, ?readBack⟩
  case off => exact congrArg (fun w => (w.extractLsb' 0 16).toNat) holds
  case len => exact congrArg (fun w => (w.extractLsb' 16 16).toNat) holds
  case frame => exact fun a outside => byteAt_storeWord_outside _ _ v outside
  case readBack =>
    rintro rest' rfl
    exact ⟨_, step_read_idle rst idle rfl loc, congrArg some holds⟩

end Sys2Proof.Machine
end

section
/-! Reserved offsets, DESC words and buffer bytes that the block does not have, and the low bits of an offset
(20_memory.md R53, R55): what such an offset names, and that the step of an access depends on its address only through
the location that the address names. -/

namespace Sys2Proof.Machine

open Sys2Proof.Config

/-! ### Accesses by location -/

/-- Two addresses that name the same location, or both none, are read alike. -/
theorem step_read_congr (s : State) {a b : Nat} (rest : List Input) (h : locateBus s.params a = locateBus s.params b) :
    step { s with inputs := .read a :: rest } = step { s with inputs := .read b :: rest } := by
  rw [step_cons rfl, step_cons rfl]
  simp only [deliver, h]

/-- Two addresses that name the same location, or both none, are written alike. -/
theorem step_write_congr (s : State) {a b : Nat} (v : Word) (rest : List Input)
    (h : locateBus s.params a = locateBus s.params b) :
    step { s with inputs := .write a v :: rest } = step { s with inputs := .write b v :: rest } := by
  rw [step_cons rfl, step_cons rfl]
  simp only [deliver, h]

/-- Bits [1:0] of an offset do not matter on the bus either (R53). -/
theorem locateBus_low (p : Params) {off r : Nat} (hr : r < 4) (aligned : off % 4 = 0) :
    locateBus p (p.blockBase + off + r) = locateBus p (p.blockBase + off) := by
  rw [Nat.add_assoc, locateBus_base, locateBus_base, locate_low p hr aligned]

/-- Settles O27: the two addresses name the same location, and inside the window there is one. -/
theorem lowOffsetBitsAreIgnored : Obligations.LowOffsetBitsAreIgnored := by
  intro s off r v rest hr aligned
  have same := locateBus_low s.params hr aligned
  refine ⟨step_read_congr s rest same, step_write_congr s v rest same, fun inside => ?_⟩
  obtain ⟨l, named⟩ := locate_isSome s.params inside
  have loc : locateBus s.params (s.params.blockBase + off + r) = some l :=
    same.trans ((locateBus_base s.params off).trans named)
  exact ⟨⟨_, step_read rfl loc⟩, _, step_write rfl loc⟩

/-! ### Offsets that are absent, and offsets that ignore writes -/

/-- `regAt` finds a register at its own offset only. -/
theorem eq_regOffset_of_regAt {o : Nat} {r : Reg} (h : regAt o = some r) : o = regOffset r := by
  unfold regAt at h
  split at h <;> cases h <;> rfl

/-- No register stands in 0x014 to 0x01F or from 0x050 on (10_state.md R20). -/
theorem regOffset_range (r : Reg) : regOffset r < 0x014 ∨ (0x020 ≤ regOffset r ∧ regOffset r < 0x050) := by
  cases r <;> decide

/-- The offsets below DESC that no register has are reserved. -/
theorem locate_noReg (p : Params) {off : Nat} (h : (0x014 ≤ off ∧ off < 0x020) ∨ (0x050 ≤ off ∧ off < 0x400)) :
    locate p off = some .reserved := by
  have noReg : regAt (off / 4 * 4) = none := by
    rw [Option.eq_none_iff_forall_ne_some]
    intro r found
    have own := eq_regOffset_of_regAt found
    have range := regOffset_range r
    omega
  have low : off / 4 * 4 < 0x400 := by omega
  unfold locate locateWord descBase
  rw [if_pos low, noReg]

/-- The DESC words at or above MAX_FRAGS are not there. -/
theorem locate_desc_past (p : Params) {k : Nat} (past : p.maxFrags ≤ k) (h : k < 256) :
    locate p (0x400 + 4 * k) = some .reserved := by
  have word : (0x400 + 4 * k) / 4 * 4 = 0x400 + 4 * k := by omega
  have index : (0x400 + 4 * k - 0x400) / 4 = k := by omega
  simp only [locate, locateWord, descBase, word, index, if_neg (Nat.not_lt.2 past)]
  rw [if_neg (by omega), if_pos (by omega)]

/-- The offsets between DESC and INBUF are reserved. -/
theorem locate_gap (p : Params) {off : Nat} (h : 0x800 ≤ off ∧ off < 0x8000) : locate p off = some .reserved := by
  unfold locate locateWord descBase inBase
  rw [if_neg (by omega), if_neg (by omega), if_pos (by omega)]

/-- The INBUF words at or above IN_BYTES are not there. -/
theorem locate_inbuf_past (p : Params) {j : Nat} (past : p.inBytes ≤ 4 * j) (h : 4 * j < 0x8000) :
    locate p (0x8000 + 4 * j) = some .reserved := by
  have word : (0x8000 + 4 * j) / 4 * 4 = 0x8000 + 4 * j := by omega
  simp only [locate, locateWord, descBase, inBase, outBase, word, Nat.add_sub_cancel_left, if_neg (Nat.not_lt.2 past)]
  rw [if_neg (by omega), if_neg (by omega), if_neg (by omega), if_pos (by omega)]

/-- The OUTBUF words at or above OUT_BYTES are not there. -/
theorem locate_outbuf_past (p : Params) {j : Nat} (past : p.outBytes ≤ 4 * j) (h : 4 * j < 0x8000) :
    locate p (0x10000 + 4 * j) = some .reserved := by
  have word : (0x10000 + 4 * j) / 4 * 4 = 0x10000 + 4 * j := by omega
  simp only [locate, locateWord, descBase, inBase, outBase, windowEnd, word, Nat.add_sub_cancel_left,
    if_neg (Nat.not_lt.2 past)]
  rw [if_neg (by omega), if_neg (by omega), if_neg (by omega), if_neg (by omega), if_pos (by omega)]

/-- The offsets below OUTBUF where the block has nothing: reserved ones, DESC words at or above MAX_FRAGS and INBUF
words at or above IN_BYTES (R55). `locate_absent` ties it to the map. -/
def AbsentBelowOutbuf (p : Params) (off : Nat) : Prop :=
  (0x014 ≤ off ∧ off ≤ 0x01C) ∨ (0x050 ≤ off ∧ off < 0x400) ∨
    (∃ k, p.maxFrags ≤ k ∧ k < 256 ∧ off = 0x400 + 4 * k) ∨ (0x800 ≤ off ∧ off < 0x8000) ∨
    (∃ j, p.inBytes ≤ 4 * j ∧ 4 * j < 0x8000 ∧ off = 0x8000 + 4 * j)

/-- Below OUTBUF the absent offsets are reserved. -/
theorem locate_absent {p : Params} {off : Nat} (h : AbsentBelowOutbuf p off) : locate p off = some .reserved := by
  rcases h with hole | hole | ⟨k, past, room, rfl⟩ | hole | ⟨j, past, room, rfl⟩
  · exact locate_noReg p (by omega)
  · exact locate_noReg p (.inr hole)
  · exact locate_desc_past p past room
  · exact locate_gap p hole
  · exact locate_inbuf_past p past room

/-- The absent offsets, those of OUTBUF among them, are reserved (R55). -/
theorem locate_reserved {p : Params} {off : Nat}
    (h : AbsentBelowOutbuf p off ∨ ∃ j, p.outBytes ≤ 4 * j ∧ 4 * j < 0x8000 ∧ off = 0x10000 + 4 * j) :
    locate p off = some .reserved := by
  rcases h with absent | ⟨j, past, room, rfl⟩
  · exact locate_absent absent
  · exact locate_outbuf_past p past room

/-- The read-only registers, whose writes are no hazard. -/
theorem locate_readOnly (p : Params) {off : Nat}
    (h : off ∈ [0x000, 0x004, 0x008, 0x00C, 0x010, 0x02C, 0x03C, 0x044, 0x048, 0x04C]) :
    ∃ l, locate p off = some l ∧ hazardous l = false := by
  suffices reg : ∃ r, off = regOffset r ∧ hazardous (.reg r) = false by
    obtain ⟨r, rfl, safe⟩ := reg
    exact ⟨.reg r, locate_reg p r, safe⟩
  simp only [List.mem_cons, List.not_mem_nil, or_false] at h
  rcases h with rfl | rfl | rfl | rfl | rfl | rfl | rfl | rfl | rfl | rfl
  · exact ⟨.id, rfl, rfl⟩
  · exact ⟨.caps, rfl, rfl⟩
  · exact ⟨.insize, rfl, rfl⟩
  · exact ⟨.outsize, rfl, rfl⟩
  · exact ⟨.scrsize, rfl, rfl⟩
  · exact ⟨.errInfo, rfl, rfl⟩
  · exact ⟨.outLen, rfl, rfl⟩
  · exact ⟨.res0, rfl, rfl⟩
  · exact ⟨.res1, rfl, rfl⟩
  · exact ⟨.res2, rfl, rfl⟩

/-- The OUTBUF window, whose writes are no hazard, present or not. -/
theorem locate_outWindow (p : Params) {off : Nat} (h : 0x10000 ≤ off ∧ off < 0x18000) :
    ∃ l, locate p off = some l ∧ hazardous l = false := by
  unfold locate locateWord descBase inBase outBase windowEnd
  rw [if_neg (by omega), if_neg (by omega), if_neg (by omega), if_neg (by omega), if_pos (by omega)]
  refine ⟨_, rfl, ?_⟩
  split <;> rfl

/-- The offsets where writes are ignored (R55) name locations whose writes are no hazard while BUSY
(70_reset_and_hazards.md R236). -/
theorem locate_writeIgnored {p : Params} {off : Nat}
    (h : off ∈ [0x000, 0x004, 0x008, 0x00C, 0x010, 0x02C, 0x03C, 0x044, 0x048, 0x04C] ∨ AbsentBelowOutbuf p off ∨
      (0x10000 ≤ off ∧ off < 0x18000)) :
    ∃ l, locate p off = some l ∧ hazardous l = false := by
  rcases h with readOnly | absent | outWindow
  · exact locate_readOnly p readOnly
  · exact ⟨.reserved, locate_absent absent, rfl⟩
  · exact locate_outWindow p outWindow

/-! ### What accesses of them do -/

/-- A reserved location reads 0 in both engine states (R55, R235). -/
theorem hostRead_reserved {s : State} (rst : s.rst = false) : hostRead .reserved s = answerWith 0 s := by
  cases eng : s.eng with
  | idle => simp [hostRead, rst, eng, readLoc]
  | busy => simp [hostRead, rst, eng, busyRead, busyLocMask, readLoc]

/-- The step of such a read. -/
theorem step_read_reserved {s : State} {addr : Nat} {rest : List Input} (rst : s.rst = false)
    (h : s.inputs = .read addr :: rest) (loc : locateBus s.params addr = some .reserved) :
    step s = .next { s with inputs := rest, answer := some 0 } :=
  (step_read h loc).trans (congrArg Host.Outcome.next (hostRead_reserved rst))

/-- A write that is no hazard while BUSY is no soft reset. -/
theorem isSoftReset_of_not_hazardous {l : Loc} (safe : hazardous l = false) (v : Word) : isSoftReset l v = false := by
  by_contra soft
  obtain ⟨rfl, -⟩ := isSoftReset_iff.1 (Bool.eq_true_of_not_eq_false soft)
  cases safe

/-- The locations whose writes are no hazard while BUSY ignore them while IDLE (R55, R236). -/
theorem idleWrite_of_not_hazardous {l : Loc} (safe : hazardous l = false) (v : Word) (s : State) :
    idleWrite l v s = s := by
  cases l with
  | reg r =>
    cases r with
    | ctrl | cmd | status | alen | blen | fcount | acc => cases safe
    | _ => rfl
  | desc _ | inbuf _ => cases safe
  | outbuf _ | reserved => rfl

/-- Settles O22: a read finds a reserved location, and a write a location whose writes are no hazard. -/
theorem reservedReadZeroIgnoreWrites : Obligations.ReservedReadZeroIgnoreWrites := by
  intro s off rest rst
  constructor
  · intro absent next
    have reserved : locate s.params off = some .reserved :=
      locate_reserved (by simpa only [AbsentBelowOutbuf, or_assoc] using absent)
    exact step_read_reserved rst next ((locateBus_base _ _).trans reserved)
  · intro v idle next ignored
    obtain ⟨l, named, safe⟩ : ∃ l, locate s.params off = some l ∧ hazardous l = false :=
      locate_writeIgnored (by simpa only [AbsentBelowOutbuf, or_assoc] using ignored)
    rw [step_write_idle rst idle next ((locateBus_base _ _).trans named) (isSoftReset_of_not_hazardous safe v),
      idleWrite_of_not_hazardous safe]

end Sys2Proof.Machine
end

section
/-! Buffer words: the byte order of 20_memory.md R51, and a word of INBUF or OUTBUF as a host reads and writes it. -/

namespace Sys2Proof.Machine

open Sys2Proof.Config

/-- Four bytes side by side are the four bytes shifted into place (R51). -/
theorem wordOfBytes_eq_shifts (b0 b1 b2 b3 : Byte) :
    wordOfBytes b0 b1 b2 b3 =
      b0.setWidth 32 ||| b1.setWidth 32 <<< 8 ||| b2.setWidth 32 <<< 16 ||| b3.setWidth 32 <<< 24 := by
  rw [wordOfBytes]
  ext i hi
  simp only [BitVec.getElem_or, BitVec.getElem_append, BitVec.getElem_shiftLeft, BitVec.getElem_setWidth]
  grind

/-- An INBUF word seen from the bus; a legal IN_BYTES does not reach past INBUF's window (00_scope.md R6). -/
theorem locateBus_inbuf {p : Params} (legal : p.Legal) {j : Nat} (hj : 4 * j < p.inBytes) :
    locateBus p (p.blockBase + 0x8000 + 4 * j) = some (.inbuf (4 * j)) := by
  obtain ⟨⟨-, -, most⟩, -⟩ := legal
  rw [Nat.add_assoc, locateBus_base, locate_inbuf p hj (by omega)]

/-- An OUTBUF word seen from the bus; a legal OUT_BYTES does not reach past OUTBUF's window (R6). -/
theorem locateBus_outbuf {p : Params} (legal : p.Legal) {j : Nat} (hj : 4 * j < p.outBytes) :
    locateBus p (p.blockBase + 0x10000 + 4 * j) = some (.outbuf (4 * j)) := by
  obtain ⟨-, ⟨-, -, most⟩, -⟩ := legal
  rw [Nat.add_assoc, locateBus_base, locate_outbuf p hj (by omega)]

/-- A word store puts the four bytes of the word in place, the lowest first (R51). -/
theorem byteAt_storeWord_inside (s : State) (a : Nat) (v : Word) :
    (s.storeWord a v).byteAt a = v.extractLsb' 0 8 ∧ (s.storeWord a v).byteAt (a + 1) = v.extractLsb' 8 8 ∧
      (s.storeWord a v).byteAt (a + 2) = v.extractLsb' 16 8 ∧ (s.storeWord a v).byteAt (a + 3) = v.extractLsb' 24 8 := by
  simp [State.byteAt_storeWord]

/-- Settles O25: a read answers the word of its four bytes, and a write is a word store at the word's offset. -/
theorem bufferWordsAreLittleEndian : Obligations.BufferWordsAreLittleEndian := by
  refine ⟨fun s j rest rst idle legal => ⟨?readIn, ?readOut⟩, ?write⟩
  case readIn =>
    intro hj next
    exact ⟨_, step_read_idle rst idle next (locateBus_inbuf legal hj), congrArg some (wordOfBytes_eq_shifts _ _ _ _)⟩
  case readOut =>
    intro hj next
    exact ⟨_, step_read_idle rst idle next (locateBus_outbuf legal hj), congrArg some (wordOfBytes_eq_shifts _ _ _ _)⟩
  case write =>
    intro s j v rest rst idle legal hj next
    have loc := locateBus_inbuf legal hj
    obtain ⟨byte0, byte1, byte2, byte3⟩ :=
      byteAt_storeWord_inside { s with inputs := rest, answer := none } (inBase + 4 * j) v
    refine ⟨_, step_write_idle rst idle next loc rfl, rfl, byte0, byte1, byte2, byte3, ?frame, ?readBack⟩
    case frame => exact fun a outside => byteAt_storeWord_outside _ _ v outside
    case readBack =>
      rintro rest' rfl
      exact ⟨_, step_read_idle rst idle rfl loc, congrArg some (State.wordAt_storeWord _ _ v)⟩

end Sys2Proof.Machine
end

section
/-! Command words. What the decoder of 30_encoding.md R77 answers is said once by the fields of the word: an error where
a reserved field is not zero (`decode_reservedBits`), else whatever the opcode map of R71 has for OP, VAR and SYM
(`decode_of_some`, `decode_of_none`). -/

namespace Sys2Proof

/-! ### The decoder by fields -/

/-- The decoder's reserved check, in the fields of R70. -/
theorem reservedZero_iff {w : Word} :
    reservedZero w = true ↔ w.extractLsb' 9 7 = 0 ∧ w.extractLsb' 21 11 = 0 := by
  simp [reservedZero]

/-- A word with a reserved field that is not zero is illegal, whatever its opcode (R75). -/
theorem decode_reservedBits {w : Word} (reserved : w.extractLsb' 9 7 ≠ 0 ∨ w.extractLsb' 21 11 ≠ 0) :
    decode w = .error .reservedBits := by
  have nonzero : ¬ reservedZero w = true := fun zero => by
    obtain ⟨low, high⟩ := reservedZero_iff.mp zero
    exact reserved.elim (· low) (· high)
  rw [decode, if_neg nonzero]

/-- Where the opcode map has a command for the fields of the word, the word decodes to it. -/
theorem decode_of_some {w : Word} {op : BitVec 8} {i : Instr} (low : w.extractLsb' 9 7 = 0)
    (high : w.extractLsb' 21 11 = 0) (opcode : w.extractLsb' 0 8 = op)
    (mapped : decodeOp op.toNat (w.getLsbD 8) (w.extractLsb' 16 5).toNat = some i) : decode w = .ok i := by
  subst opcode
  rw [decode, if_pos (reservedZero_iff.mpr ⟨low, high⟩), opField, varField, symField, mapped]

/-- Where it has none, the word is illegal for its opcode. -/
theorem decode_of_none {w : Word} (low : w.extractLsb' 9 7 = 0) (high : w.extractLsb' 21 11 = 0)
    (unmapped : decodeOp (w.extractLsb' 0 8).toNat (w.getLsbD 8) (w.extractLsb' 16 5).toNat = none) :
    decode w = .error .unknownOpcode := by
  rw [decode, if_pos (reservedZero_iff.mpr ⟨low, high⟩), opField, varField, symField, unmapped]

/-- The opcode map ends at 0x0C (R71). -/
theorem decodeOp_eq_none {op : Nat} (beyond : 0x0D ≤ op) (bis : Bool) (sym : Nat) : decodeOp op bis sym = none := by
  obtain ⟨k, rfl⟩ := Nat.exists_eq_add_of_le' beyond
  rfl

/-- The opcodes 0x0D to 0xFF are illegal (R71, R75). -/
theorem decode_unknownOpcode {w : Word} (low : w.extractLsb' 9 7 = 0) (high : w.extractLsb' 21 11 = 0)
    (beyond : 0x0D ≤ (w.extractLsb' 0 8).toNat) : decode w = .error .unknownOpcode :=
  decode_of_none low high (decodeOp_eq_none beyond _ _)

/-! ### The statements -/

/-- Settles O1, by cases on the command: each constructor has its round trip, and only the one of POLY.STEP uses the
bound on the operand. -/
theorem decodeEncodeAgree : Obligations.DecodeEncodeAgree := by
  intro i wf
  cases i with
  | nop => exact Laws.RoundTrip.nop wf
  | polyInit => exact Laws.RoundTrip.polyInit wf
  | polyStep sym => exact Laws.RoundTrip.polyStep sym wf
  | polyRun => exact Laws.RoundTrip.polyRun wf
  | hrpExpand => exact Laws.RoundTrip.hrpExpand wf
  | chkCreateO => exact Laws.RoundTrip.chkCreateO wf
  | chkCreateB => exact Laws.RoundTrip.chkCreateB wf
  | chkVerifyO => exact Laws.RoundTrip.chkVerifyO wf
  | chkVerifyB => exact Laws.RoundTrip.chkVerifyB wf
  | b32EncO => exact Laws.RoundTrip.b32EncO wf
  | b32EncB => exact Laws.RoundTrip.b32EncB wf
  | b32Dec => exact Laws.RoundTrip.b32Dec wf
  | b32Encd => exact Laws.RoundTrip.b32Encd wf
  | b32Decd => exact Laws.RoundTrip.b32Decd wf
  | urProbe => exact Laws.RoundTrip.urProbe wf
  | urDec => exact Laws.RoundTrip.urDec wf

/-- Settles O2: the reserved fields decide first; after them each opcode's row is the opcode map at that opcode, for any
VAR and SYM. -/
theorem decodeFollowsTheTable : Obligations.DecodeFollowsTheTable := by
  intro w
  refine ⟨fun reserved => ⟨_, decode_reservedBits reserved⟩, fun low high => ?_⟩
  have row {op : BitVec 8} {i : Instr}
      (mapped : decodeOp op.toNat (w.getLsbD 8) (w.extractLsb' 16 5).toNat = some i)
      (opcode : w.extractLsb' 0 8 = op) : decode w = .ok i := decode_of_some low high opcode mapped
  exact ⟨row rfl, row rfl, row rfl, row rfl, row rfl, row rfl, row rfl, row rfl, row rfl, row rfl, row rfl, row rfl,
    row rfl, fun beyond => ⟨_, decode_unknownOpcode low high beyond⟩⟩

/-- Settles O3: each word by its fields; 0x0D is the first opcode beyond the map, and 0x208 has bit 9 set under a legal
opcode. -/
theorem specWordsDecode : Obligations.SpecWordsDecode :=
  ⟨decode_of_some rfl rfl rfl rfl, decode_of_some rfl rfl rfl rfl, decode_of_some rfl rfl rfl rfl,
    decode_of_some rfl rfl rfl rfl, decode_of_some rfl rfl rfl rfl, decode_of_some rfl rfl rfl rfl,
    decode_unknownOpcode rfl rfl (by decide), decode_reservedBits (.inl (by decide))⟩

end Sys2Proof
end

section
/-! The command engine, one completion step at a time: which step runs which command, that every command ends, and the
whole effect of an error completion, of an illegal word and of NOP (40_command_engine.md R92 to R98, R101). -/

namespace Sys2Proof.Machine

/-! ### The completion step -/

/-- With a command in flight and the engine's turn next, the step is the completion step (R92). -/
theorem step_completion {s : State} (low : s.rst = false) (busy : s.eng = .busy) (turn : s.nextInput = .engine) :
    step s = completion s.popInput := by
  rw [step_engine turn]
  exact engineTurn_busy (s := s.popInput) low busy

/-- A word that decodes completes as its command (R101). -/
theorem completion_of_decode {s : State} {i : Instr} (legal : decode s.cmd = .ok i) : completion s = exec i s := by
  rw [completion, legal]

/-- A word that does not decode completes with ILLEGAL_COMMAND, whatever makes it illegal (R98). -/
theorem completion_of_illegal {s : State} {e : Illegal} (illegal : decode s.cmd = .error e) :
    completion s = .next (completeIllegal s) := by
  rw [completion, illegal]

/-- Every command ends in `settle`. -/
theorem exec_eq_settle (i : Instr) (s : State) : ∃ r, exec i s = settle s r := by
  cases i with
  | nop | polyInit | polyStep n => exact ⟨.ok _, rfl⟩
  | _ => exact ⟨_, rfl⟩

/-- So it answers a next state, IDLE and DONE. -/
theorem exec_ends (i : Instr) (s : State) : ∃ t, exec i s = .next t ∧ t.eng = .idle ∧ t.done = true := by
  obtain ⟨r, ends⟩ := exec_eq_settle i s
  exact ends ▸ settle_next s r

/-- So does the completion step of any word. -/
theorem completion_ends (s : State) : ∃ t, completion s = .next t ∧ t.eng = .idle ∧ t.done = true := by
  cases word : decode s.cmd with
  | ok i => exact completion_of_decode word ▸ exec_ends i s
  | error e => exact ⟨_, completion_of_illegal word, rfl, rfl⟩

/-- Settles O4. -/
theorem stepRunsTheDecodedCommand : Obligations.StepRunsTheDecodedCommand := by
  intro s i low busy turn _ word
  rw [step_completion low busy turn]
  exact completion_of_decode (s := s.popInput) word

/-- Settles O7: the completion step always ends, and its frame holds CMD and the pending events. -/
theorem commandAlwaysCompletes : Obligations.CommandAlwaysCompletes := by
  intro s low busy turn
  obtain ⟨t, ends, idle, done⟩ := completion_ends s.popInput
  have frame : CommandFrame s.popInput t := commandFrame_of_work (completion_work ends)
  exact ⟨t, (step_completion low busy turn).trans ends, idle, by simp [State.busy, idle], done, frame.inputs, frame.cmd⟩

/-! ### Result registers that a command does not write -/

/-- OUT_LEN and RES0 to RES2 unchanged are as issue left them (R91). -/
theorem keepsResults_of_eq {s t : State} (outLen : t.outLen = s.outLen) (res0 : t.res0 = s.res0)
    (res1 : t.res1 = s.res1) (res2 : t.res2 = s.res2) : KeepsResults s t :=
  ⟨⟨outLen, fun issued => outLen.trans issued.outLen⟩, ⟨res0, fun issued => res0.trans issued.res0⟩,
    ⟨res1, fun issued => res1.trans issued.res1⟩, ⟨res2, fun issued => res2.trans issued.res2⟩⟩

/-- Settles O30. -/
theorem nopCompletes : Obligations.NopCompletes := by
  refine ⟨fun w opcode low high => decode_of_some low high opcode rfl, fun s => ⟨complete s, execNop_eq s, ?_⟩⟩
  have succeeds : Succeeds s (complete s) := ⟨rfl, rfl, rfl, rfl, (CommandFrame.refl s).complete⟩
  exact ⟨succeeds, keepsResults_of_eq rfl rfl rfl rfl, rfl, byteAt_complete s⟩

/-! ### Error completion -/

/-- Taking an error is the error completion of 60_exceptions.md R203. -/
theorem fails_raiseError (e : CmdError) (s : State) : Fails s (raiseError e s) e.code e.detail e.frag e.field where
  eng := rfl
  done := rfl
  errcode := rfl
  err := bne_iff_ne.mpr (errorNumber_ne_zero e.code)
  errInfo := rfl
  acc := rfl
  results := keepsResults_of_eq rfl rfl rfl rfl
  frame := commandFrame_raiseError e s

/-- Settles O8: the end with an ERRCODE is the error completion, since a completed work has none. -/
theorem errorsLeaveNoPartialResult : Obligations.ErrorsLeaveNoPartialResult := by
  intro i s t h err
  rcases exec_cases h with ⟨e, rfl⟩ | ⟨u, -, rfl⟩
  · refine ⟨⟨e, fails_raiseError e s⟩, rfl, fun a out => ?_⟩
    exact (State.byteAt_congr rfl rfl rfl a).trans (s.byteAt_spoilOut_out out)
  · exact absurd (complete_errcode u) err

/-- The words that 30_encoding.md R75 calls illegal do not decode. -/
theorem decode_illegal {w : Word}
    (illegal : w.extractLsb' 9 7 ≠ 0 ∨ w.extractLsb' 21 11 ≠ 0 ∨ 0x0D ≤ (w.extractLsb' 0 8).toNat) :
    ∃ e, decode w = .error e := by
  by_cases reserved : w.extractLsb' 9 7 ≠ 0 ∨ w.extractLsb' 21 11 ≠ 0
  · exact ⟨_, decode_reservedBits reserved⟩
  · obtain ⟨low, high⟩ : w.extractLsb' 9 7 = 0 ∧ w.extractLsb' 21 11 = 0 := by simpa using reserved
    exact ⟨_, decode_unknownOpcode low high (by simpa [low, high] using illegal)⟩

/-- ERR_INFO of an illegal word as a register value: `0x00FF0000 | w[7:0]` (R98). -/
theorem errInfoWord_illegal (w : Word) :
    errInfoWord ⟨BitVec.ofNat 16 (w.extractLsb' 0 8).toNat, 0xFF, 0⟩ = (0x00FF0000 ||| (w &&& 0xFF)) := by
  have opcode : w &&& 0xFF = (w.extractLsb' 0 8).setWidth 32 := by
    apply BitVec.eq_of_toNat_eq
    rw [BitVec.toNat_and, BitVec.toNat_setWidth, BitVec.extractLsb'_toNat, Nat.shiftRight_zero,
      Nat.mod_eq_of_lt (by omega)]
    exact Nat.and_two_pow_sub_one_eq_mod w.toNat 8
  rw [opcode, errInfoWord, BitVec.ofNat_toNat]
  generalize w.extractLsb' 0 8 = op
  revert op -- the two words agree for each of the 256 opcodes
  decide

/-- Settles O5: the step is the error completion of ILLEGAL_COMMAND, and ERR_INFO is the word of its fields. -/
theorem illegalWordCompletesWithError : Obligations.IllegalWordCompletesWithError := by
  intro s low busy turn illegal
  obtain ⟨e, word⟩ := decode_illegal illegal
  have fails := fails_raiseError ⟨.illegalCommand, (s.cmd.extractLsb' 0 8).toNat, noFrag, 0⟩ s.popInput
  refine ⟨completeIllegal s.popInput, ?_, fails, fails.errcode, fails.err, fails.done, ?_, fails.frame.cmd⟩
  · exact (step_completion low busy turn).trans (completion_of_illegal (s := s.popInput) word)
  · exact errInfoWord_illegal s.cmd

/-! ### Issue -/

/-- Issue leaves a command in flight (R91). -/
theorem inFlight_issue (w : Word) (s : State) : (issue w s).InFlight := ⟨rfl, rfl, rfl, rfl, rfl, rfl, rfl, rfl⟩

/-- Settles O6: any byte offset of the word names CMD, whose write is issue while IDLE and a hazard while BUSY. -/
theorem cmdWriteIssues : Obligations.CmdWriteIssues := by
  intro s r w rest low hr next
  have loc : locateBus s.params (s.params.blockBase + 0x024 + r) = some (.reg .cmd) :=
    (locateBus_low s.params hr rfl).trans (locateBus_reg s.params .cmd)
  constructor
  · intro idle
    refine ⟨issue w { s with inputs := rest, answer := none }, step_write_idle low idle next loc rfl, rfl,
      inFlight_issue w _, rfl, rfl, Bool.and_false _, rfl, rfl, rfl, rfl, rfl, rfl, rfl, low, rfl, fun a => ?_⟩
    exact State.byteAt_congr rfl rfl rfl a
  · intro busy
    exact step_write_busy low busy next loc rfl

end Sys2Proof.Machine
end

section
/-! The invariant of the block is kept by every step. A step either leaves the status and result registers alone
(`StatusAgree`), or takes the block to the reset column (`State.AtReset.inv`), or issues a command, or ends one. -/

namespace Sys2Proof.Machine

open Sys2Proof.Config

/-! ### Steps that leave the status and the results alone -/

/-- `t` has the parameters, the status and the results of `s`; DONE only needs to agree while BUSY. -/
structure StatusAgree (s t : State) : Prop where
  params : t.params = s.params
  eng : t.eng = s.eng
  errcode : t.errcode = s.errcode
  errInfo : t.errInfo = s.errInfo
  outLen : t.outLen = s.outLen
  res0 : t.res0 = s.res0
  res1 : t.res1 = s.res1
  res2 : t.res2 = s.res2
  done : s.eng = .busy → t.done = s.done

/-- A command in flight stays as issue left it while the status and the results stay. -/
theorem StatusAgree.inFlight {s t : State} (same : StatusAgree s t) (flight : s.InFlight) : t.InFlight where
  eng := same.eng.trans flight.eng
  done := (same.done flight.eng).trans flight.done
  errcode := same.errcode.trans flight.errcode
  errInfo := same.errInfo.trans flight.errInfo
  outLen := same.outLen.trans flight.outLen
  res0 := same.res0.trans flight.res0
  res1 := same.res1.trans flight.res1
  res2 := same.res2.trans flight.res2

/-- Then the invariant asks for memory and for the registers held in reset only. -/
theorem State.Inv.of_statusAgree {s t : State} (inv : s.Inv) (same : StatusAgree s t)
    (canonical : Memory.wf t.mem = true) (mapped : ∀ c ∈ t.mem, byteMapped s.params c.1)
    (output : ∀ i, Memory.lookup t.mem (outBase + i) = Memory.lookup s.mem (outBase + i))
    (held : t.rst = true → t.AtReset) : t.Inv where
  legal := same.params ▸ inv.legal
  canonical := canonical
  mapped := same.params ▸ mapped
  inFlight := fun busy => same.inFlight (inv.inFlight (same.eng ▸ busy))
  produced := same.errcode ▸ inv.produced
  noError := by
    rw [same.errcode, same.errInfo]
    exact inv.noError
  noPartial := by
    rw [same.errcode, same.outLen, same.res0, same.res1, same.res2]
    exact inv.noPartial
  outFits := by
    rw [same.outLen, same.params]
    exact inv.outFits
  outValid := fun i valid => output i ▸ inv.outValid i (same.outLen ▸ valid)
  held := held

/-- With memory unchanged, only the registers held in reset are left. -/
theorem State.Inv.of_sameMemory {s t : State} (inv : s.Inv) (same : StatusAgree s t) (mem : t.mem = s.mem)
    (held : t.rst = true → t.AtReset) : t.Inv :=
  inv.of_statusAgree same (mem ▸ inv.canonical) (mem ▸ inv.mapped) (fun _ => by rw [mem]) held

/-- With `rst` low no register is held in reset. -/
theorem State.atReset_of_low {s : State} (low : s.rst = false) (rst : s.rst = true) : s.AtReset :=
  absurd (low.symm.trans rst) nofun

/-- Nothing of the invariant depends on the model's bookkeeping of the bus. -/
theorem State.Inv.onBus {s : State} (inv : s.Inv) (inputs : List Input) (answer : Option Word) (busDraw : Nat) :
    ({ s with inputs := inputs, answer := answer, busDraw := busDraw } : State).Inv :=
  inv.of_sameMemory ⟨rfl, rfl, rfl, rfl, rfl, rfl, rfl, rfl, fun _ => rfl⟩ rfl fun rst => { inv.held rst with }

/-- A host read keeps the invariant: it answers a word and does nothing else. -/
theorem inv_hostRead {s : State} (inv : s.Inv) (l : Loc) : (hostRead l s).Inv := by
  rcases hostRead_cases l s with ⟨w, h⟩ | ⟨mask, h⟩ <;> rw [h] <;> exact inv.onBus _ _ _

/-- A hazard write keeps it: HAZ is held at 0 only while `rst` is asserted. -/
theorem inv_hazard {s : State} (inv : s.Inv) (low : s.rst = false) : (hazard s).Inv :=
  inv.of_sameMemory ⟨rfl, rfl, rfl, rfl, rfl, rfl, rfl, rfl, fun _ => rfl⟩ rfl
    (State.atReset_of_low low)

/-- So does the fall of `rst`. -/
theorem inv_releaseRst {s : State} (inv : s.Inv) : ({ s with rst := false } : State).Inv :=
  inv.of_sameMemory ⟨rfl, rfl, rfl, rfl, rfl, rfl, rfl, rfl, fun _ => rfl⟩ rfl nofun

/-! ### Host writes while IDLE -/

/-- Issue keeps the invariant: it makes the values that the invariant asks of a command in flight. -/
theorem inv_issue {s : State} (inv : s.Inv) (low : s.rst = false) (w : Word) : (issue w s).Inv where
  legal := inv.legal
  canonical := inv.canonical
  mapped := inv.mapped
  inFlight := fun _ => inFlight_issue w s
  produced := zero_mem_producedCodes
  noError := fun _ => rfl
  noPartial := fun err => absurd rfl err
  outFits := Nat.zero_le _
  outValid := fun i valid => absurd valid (Nat.not_lt_zero i)
  held := State.atReset_of_low low

/-- What a word store can leave in memory. -/
theorem Memory.mem_storeWord {m : List Host.Cell} {a : Nat} {v : Word} {c : Host.Cell}
    (h : c ∈ Memory.storeWord m a v) : (a ≤ c.1 ∧ c.1 < a + 4) ∨ c ∈ m := by
  rcases (Memory.mem_store h).imp_right fun h => (Memory.mem_store h).imp_right fun h =>
    (Memory.mem_store h).imp_right Memory.mem_store with rfl | rfl | rfl | rfl | old
  · simp
  · simp
  · simp
  · simp
  · exact .inr old

/-- A word store leaves what lies behind its word. -/
theorem Memory.lookup_storeWord_behind (m : List Host.Cell) {a : Nat} (v : Word) {c : Nat} (behind : a + 4 ≤ c) :
    Memory.lookup (Memory.storeWord m a v) c = Memory.lookup m c := by
  simp only [Memory.storeWord, Memory.lookup_store]
  rw [if_neg (by omega), if_neg (by omega), if_neg (by omega), if_neg (by omega)]

/-- A store of a word that the block has below OUTBUF keeps the invariant. -/
theorem inv_storeWord {s : State} (inv : s.Inv) (low : s.rst = false) {a : Nat} (v : Word)
    (inside : ∀ c, a ≤ c → c < a + 4 → byteMapped s.params c) (below : a + 4 ≤ outBase) : (s.storeWord a v).Inv := by
  refine inv.of_statusAgree ⟨rfl, rfl, rfl, rfl, rfl, rfl, rfl, rfl, fun _ => rfl⟩
    (Memory.wf_storeWord inv.canonical a v) (fun c stored => ?_) (fun i => ?_) (State.atReset_of_low low)
  · rcases Memory.mem_storeWord stored with ⟨first, last⟩ | old
    · exact inside c.1 first last
    · exact inv.mapped c old
  · exact Memory.lookup_storeWord_behind s.mem v (by omega)

/-- A descriptor or an INBUF word that a block of these parameters has; a word of INBUF begins at a multiple of 4
(10_state.md R20, R38, R40). -/
def Loc.Present (p : Params) : Loc → Prop
  | .desc k => k < p.maxFrags
  | .inbuf i => i % 4 = 0 ∧ i < p.inBytes
  | .reg _ | .outbuf _ | .reserved => True

/-- What an address names, the block has. -/
theorem present_of_locateBus {p : Params} {addr : Nat} {l : Loc} (loc : locateBus p addr = some l) : l.Present p := by
  unfold locateBus locate locateWord at loc
  split_ifs at loc <;> cases loc
  · split <;> trivial
  · assumption
  · trivial
  · trivial
  · exact ⟨by unfold inBase at *; omega, by assumption⟩
  · trivial
  · trivial
  · trivial

/-- A register write while IDLE keeps the invariant: CMD issues, and the others touch neither results nor errors. -/
theorem inv_idleWriteReg {s : State} (inv : s.Inv) (low : s.rst = false) (idle : s.eng = .idle) (r : Reg) (v : Word) :
    (idleWriteReg r v s).Inv := by
  have operand {t : State} (same : StatusAgree s t) (mem : t.mem = s.mem) (rst : t.rst = s.rst) : t.Inv :=
    inv.of_sameMemory same mem (State.atReset_of_low (rst.trans low))
  have notBusy {P : Prop} : s.eng = .busy → P := fun busy => absurd (idle.symm.trans busy) nofun
  cases r with
  | cmd => exact inv_issue inv low v
  | ctrl | status | alen | blen | fcount | acc =>
    exact operand ⟨rfl, rfl, rfl, rfl, rfl, rfl, rfl, rfl, notBusy⟩ rfl rfl
  | id | caps | insize | outsize | scrsize | errInfo | outLen | res0 | res1 | res2 => exact inv

/-- A write while IDLE to a location that an address names keeps the invariant. -/
theorem inv_idleWrite {s : State} (inv : s.Inv) (low : s.rst = false) (idle : s.eng = .idle) {addr : Nat} {l : Loc}
    (loc : locateBus s.params addr = some l) (v : Word) : (idleWrite l v s).Inv := by
  obtain ⟨⟨inWords, -, inMost⟩, -, -, -, fragsMost⟩ := inv.legal
  cases l with
  | reg r => exact inv_idleWriteReg inv low idle r v
  | desc k =>
    have hk : k < s.params.maxFrags := present_of_locateBus loc
    refine inv_storeWord inv low v (fun c first last => .inl ?_) ?_
    · omega
    · unfold descBase outBase; omega
  | inbuf i =>
    obtain ⟨aligned, hi⟩ : i % 4 = 0 ∧ i < s.params.inBytes := present_of_locateBus loc
    refine inv_storeWord inv low v (fun c first last => .inr (.inl ?_)) ?_
    · omega
    · unfold inBase outBase; omega
  | outbuf i => exact inv
  | reserved => exact inv

/-! ### Resets -/

/-- A soft reset gives the reset column and drops OUTBUF (70_reset_and_hazards.md R231). -/
theorem inv_softReset {s : State} (inv : s.Inv) : (softReset s).Inv :=
  State.AtReset.inv (s := softReset s) (by constructor <;> rfl) inv.legal (Memory.wf_below inv.canonical outBase)
    fun c listed => inv.mapped c (Memory.mem_below.mp listed).1

/-- The rise of `rst` gives the reset column and drops every byte (R230). -/
theorem inv_assertRst {s : State} (inv : s.Inv) : ({ hardReset s with rst := true } : State).Inv :=
  State.AtReset.inv (by constructor <;> rfl) inv.legal
    (Memory.wf_filter (Memory.wf_below inv.canonical outBase) _)
    fun c listed => inv.mapped c (Memory.mem_below.mp (List.mem_of_mem_filter listed)).1

/-- A host write to a location that an address names keeps the invariant. -/
theorem inv_hostWrite {s : State} (inv : s.Inv) {addr : Nat} {l : Loc} (loc : locateBus s.params addr = some l)
    (v : Word) : (hostWrite l v s).Inv := by
  rcases hostWrite_cases l v s with h | ⟨-, -, h⟩ | ⟨low, idle, h⟩ | ⟨low, -, h⟩ <;> rw [h]
  · exact inv
  · exact inv_softReset inv
  · exact inv_idleWrite inv low idle loc v
  · exact inv_hazard inv low

/-! ### The end of a command -/

/-- An error completion keeps the invariant: the results are still the zeros of issue (R94). -/
theorem inv_raiseError {s : State} (inv : s.Inv) (low : s.rst = false) (flight : s.InFlight) (e : CmdError) :
    (raiseError e s).Inv where
  legal := inv.legal
  canonical := Memory.wf_below inv.canonical outBase
  mapped := fun c listed => inv.mapped c (Memory.mem_below.mp listed).1
  inFlight := nofun
  produced := errorNumber_mem e.code
  noError := fun none => absurd none (errorNumber_ne_zero e.code)
  noPartial := fun _ => ⟨flight.outLen, flight.res0, flight.res1, flight.res2⟩
  outFits := inv.outFits
  outValid := fun i valid => by simp [flight.outLen] at valid
  held := State.atReset_of_low low

/-- `complete(OK)` makes the invariant of parameters, memory and an output that stands in OUTBUF (R93, R96). -/
theorem inv_complete {u : State} (legal : u.params.Legal) (canonical : Memory.wf u.mem = true)
    (mapped : ∀ c ∈ u.mem, byteMapped u.params c.1) (outFits : u.outLen.toNat ≤ u.params.outBytes)
    (outValid : ∀ i, i < u.outLen.toNat → Memory.lookup u.mem (outBase + i) ≠ none) (low : u.rst = false) :
    (complete u).Inv where
  legal := legal
  canonical := canonical
  mapped := mapped
  inFlight := nofun
  produced := zero_mem_producedCodes
  noError := fun _ => rfl
  noPartial := fun err => absurd rfl err
  outFits := outFits
  outValid := outValid
  held := State.atReset_of_low low

/-- The completion of a command's work keeps the invariant. -/
theorem inv_complete_work {s u : State} (inv : s.Inv) (low : s.rst = false) (flight : s.InFlight) (work : Work s u) :
    (complete u).Inv := by
  cases work with
  | nothing => exact inv_complete inv.legal inv.canonical inv.mapped inv.outFits inv.outValid low
  | registers a r0 r1 r2 =>
    refine inv_complete inv.legal (Memory.wf_below inv.canonical outBase)
      (fun c listed => inv.mapped c (Memory.mem_below.mp listed).1) inv.outFits (fun i valid => ?_) low
    simp [flight.outLen] at valid
  | output x r0 r1 r2 fits =>
    have length : (BitVec.ofNat 16 x.length).toNat = x.length := toNat_ofNat_length inv.legal fits
    have fits' : x.length ≤ s.params.outBytes := by
      obtain ⟨-, ⟨-, least, -⟩, -, -⟩ := inv.legal
      omega
    refine inv_complete inv.legal (Memory.wf_below_append inv.canonical outBase x) (fun c listed => ?_)
      (length.trans_le fits') (fun i valid => ?_) low
    · rcases List.mem_append.mp listed with old | new
      · exact inv.mapped c (Memory.mem_below.mp old).1
      · obtain ⟨first, last⟩ := Memory.mem_cellsFrom new
        exact .inr (.inr ⟨first, last.trans_le (Nat.add_le_add_left fits' outBase)⟩)
    · have written : i < x.length := valid.trans_eq length
      simp [Memory.lookup_append, Memory.lookup_below, Memory.lookup_cellsFrom, written]

/-- The engine's turn keeps the invariant. -/
theorem inv_engineTurn {s t : State} (inv : s.Inv) (h : engineTurn s = .next t) : t.Inv := by
  rcases engineTurn_cases h with rfl | ⟨low, busy, completes⟩
  · exact inv
  · rcases completion_work completes with ⟨e, rfl⟩ | ⟨u, work, rfl⟩
    · exact inv_raiseError inv low (inv.inFlight busy) e
    · exact inv_complete_work inv low (inv.inFlight busy) work

/-- Settles O13, by the five events: taking the event off the list keeps the invariant, and then so does the event. -/
theorem stepKeepsGoodState : Obligations.StepKeepsGoodState := by
  intro s t inv h
  have popped : s.popInput.Inv := inv.onBus s.inputs.tail none s.busDraw
  rcases step_cases h with ⟨-, turn⟩ | ⟨_, l, -, -, rfl⟩ | ⟨_, v, l, -, loc, rfl⟩ | ⟨-, rfl⟩ | ⟨-, rfl⟩
  · exact inv_engineTurn popped turn
  · exact inv_hostRead popped l
  · exact inv_hostWrite popped loc v
  · exact inv_assertRst popped
  · exact inv_releaseRst popped

end Sys2Proof.Machine
end

section
/-! Host accesses while a command runs do not change what it leaves (40_command_engine.md R100). Two states that are the
same to a command differ only in HAZ and in the bus bookkeeping, so one is the other with these fields taken over
(`State.rebus`). No meaning reads them, so every meaning commutes with `rebus`; and a plain access while BUSY changes
nothing else. -/

namespace Sys2Proof.Machine

/-! ### Sameness to a command -/

/-- `s` with HAZ and the bookkeeping of the bus of `v`. -/
def State.rebus (v s : State) : State :=
  { s with haz := v.haz, busDraw := v.busDraw, inputs := v.inputs, answer := v.answer }

/-- Taking these fields over leaves everything that a command's result may depend on. -/
theorem sameCommand_rebus (v s : State) : SameCommand s (v.rebus s) := by constructor <;> rfl

/-- And nothing else is left to differ. -/
theorem SameCommand.eq_rebus {s t : State} (same : SameCommand s t) : t = t.rebus s := by
  cases s
  cases t
  cases same
  simp_all [State.rebus]

/-- Sameness to a command passes along a chain of steps. -/
theorem SameCommand.trans {s t u : State} (first : SameCommand s t) (second : SameCommand t u) : SameCommand s u := by
  rw [second.eq_rebus, first.eq_rebus]
  exact sameCommand_rebus u s

/-! ### Meanings commute with `rebus` -/

/-- A sequence of checks whose end follows `f` follows `f` as a whole. -/
theorem bind_eq_map_bind {ε α β : Type} {f : β → β} {x : Except ε α} {g g' : α → Except ε β}
    (follows : ∀ a, g' a = f <$> g a) : (x >>= g') = f <$> (x >>= g) := by
  cases x with
  | ok a => exact follows a
  | error e => rfl

/-- Where the work follows `rebus`, the end of the command does. -/
theorem settle_rebus {v s t : State} {r r' : Except CmdError State} (follows : r' = v.rebus <$> r)
    (h : settle s r = .next t) : settle (v.rebus s) r' = .next (v.rebus t) := by
  subst follows
  cases r <;> cases h <;> rfl

/-- The descriptor checks read none of the fields. -/
theorem checkDescs_rebus (v s : State) (k n : Nat) : checkDescs (v.rebus s) k n = checkDescs s k n := by
  induction n generalizing k with
  | zero => rfl
  | succ n ih =>
    rw [checkDescs, ih]
    rfl

/-- Every command does the same from a state with these fields taken over: each of its checks reads the same operands,
and its work writes none of the fields. -/
theorem exec_rebus {i : Instr} {v s t : State} (h : exec i s = .next t) :
    exec i (v.rebus s) = .next (v.rebus t) := by
  cases i with
  | nop | polyInit | polyStep n => cases h; rfl
  | polyRun | hrpExpand | chkCreateO | chkCreateB | chkVerifyO | chkVerifyB | b32Encd | urProbe =>
    exact settle_rebus (bind_eq_map_bind fun _ => bind_eq_map_bind fun _ => rfl) h
  | b32EncO | b32EncB | b32Dec | b32Decd =>
    exact settle_rebus (bind_eq_map_bind fun _ => bind_eq_map_bind fun _ => bind_eq_map_bind fun _ => rfl) h
  | urDec =>
    refine settle_rebus ?_ h
    refine bind_eq_map_bind fun _ => bind_eq_map_bind fun _ => ?_
    rw [checkDescs_rebus]
    exact bind_eq_map_bind fun _ => bind_eq_map_bind fun _ => bind_eq_map_bind fun _ => rfl

/-- So does the completion step, legal word or not. -/
theorem completion_rebus {v s t : State} (h : completion s = .next t) : completion (v.rebus s) = .next (v.rebus t) := by
  rcases completion_cases h with ⟨i, word, ends⟩ | ⟨⟨e, word⟩, rfl⟩
  · exact (completion_of_decode (s := v.rebus s) word).trans (exec_rebus ends)
  · exact completion_of_illegal (s := v.rebus s) word

/-! ### Accesses while BUSY -/

/-- A host read is the same to a command. -/
theorem sameCommand_hostRead (l : Loc) (s : State) : SameCommand s (hostRead l s) := by
  rcases hostRead_cases l s with ⟨w, h⟩ | ⟨mask, h⟩ <;> rw [h] <;> constructor <;> rfl

/-- So is a write while BUSY, a hazard write or not. -/
theorem sameCommand_busyWrite (l : Loc) (s : State) : SameCommand s (busyWrite l s) := by
  unfold busyWrite
  split <;> constructor <;> rfl

/-- A host read leaves the pending events. -/
theorem hostRead_inputs (l : Loc) (s : State) : (hostRead l s).inputs = s.inputs := by
  rcases hostRead_cases l s with ⟨w, h⟩ | ⟨mask, h⟩ <;> rw [h] <;> rfl

/-- So does a write while BUSY. -/
theorem busyWrite_inputs (l : Loc) (s : State) : (busyWrite l s).inputs = s.inputs := by
  unfold busyWrite
  split <;> rfl

/-- One plain access while a command runs: it answers a next state, the same to the command. -/
theorem step_plainAccess {s : State} {e : Input} {rest : List Input} (low : s.rst = false) (busy : s.eng = .busy)
    (next : s.inputs = e :: rest) (plain : PlainAccess s.params e) :
    ∃ u, step s = .next u ∧ SameCommand s u ∧ u.inputs = rest := by
  have popped : SameCommand s { s with inputs := rest, answer := none } := by constructor <;> rfl
  cases e with
  | read addr =>
    obtain ⟨l, loc⟩ := plain
    exact ⟨_, step_read next loc, popped.trans (sameCommand_hostRead l _), hostRead_inputs l _⟩
  | write addr v =>
    obtain ⟨l, loc, notReset⟩ := plain
    exact ⟨_, step_write_busy low busy next loc notReset, popped.trans (sameCommand_busyWrite l _),
      busyWrite_inputs l _⟩
  | engine | assertRst | releaseRst => cases plain

/-- A run goes on from the state that its first step answers. -/
theorem run_succ {s u : State} (first : step s = .next u) (n : Nat) : core.run (n + 1) s = core.run n u := by
  have first' : core.step s = .next u := first
  simp [Host.Core.run, first']

/-- Any list of them, by induction on the list: BUSY, `rst` and the parameters, which make the next access plain, are
among what the accesses before it leave alone. -/
theorem run_plainAccesses {s : State} {es pending : List Input} (low : s.rst = false) (busy : s.eng = .busy)
    (next : s.inputs = es ++ pending) (plain : ∀ e ∈ es, PlainAccess s.params e) :
    ∃ u, core.run es.length s = .next u ∧ SameCommand s u ∧ u.inputs = pending := by
  induction es generalizing s with
  | nil => exact ⟨s, rfl, by constructor <;> rfl, next⟩
  | cons e es ih =>
    obtain ⟨head, tail⟩ := List.forall_mem_cons.mp plain
    obtain ⟨u, first, same, left⟩ := step_plainAccess low busy next head
    obtain ⟨w, run, same', done⟩ := ih (same.rst.trans low) (same.eng.trans busy) left (same.params ▸ tail)
    exact ⟨w, (run_succ first es.length).trans run, same.trans same', done⟩

/-- Settles O15: the accesses lead to a state that is the same to the command, and completion commutes with what they
changed. -/
theorem resultIndependentOfLatency : Obligations.ResultIndependentOfLatency := by
  intro s es rest low busy next plain
  obtain ⟨u, run, same, left⟩ := run_plainAccesses low busy next plain
  obtain ⟨t0, ends, -, -⟩ := completion_ends { s with inputs := rest, answer := none }
  have popped : SameCommand { s with inputs := rest, answer := none } u.popInput := { same with }
  have after : step u = completion u.popInput :=
    step_completion (same.rst.trans low) (same.eng.trans busy) (by simp [State.nextInput, left])
  refine ⟨u, u.popInput.rebus t0, t0, run, ?_, ?_, sameCommand_rebus _ t0⟩
  · rw [after, popped.eq_rebus]
    exact completion_rebus ends
  · exact (step_completion (s := { s with inputs := .engine :: rest }) low busy rfl).trans ends

end Sys2Proof.Machine
end

section
/-! The algebra of the checksum (41_polymod.md R110 to R115 and R122). The selected generators and so the step are linear
over XOR; a fold over symbols is the fold over as many zeros XOR the fold of the symbols from 0; and as long as no generator
is selected a step only packs its symbol. The step is injective, so a difference once made stays. -/

namespace Sys2Proof.Machine

/-! ### Generators -/

/-- Without a selected bit no generator is XORed in. -/
theorem applyGenerators_zero (i : Nat) (gs : List Acc) (next : Acc) : applyGenerators 0#5 i gs next = next := by
  induction gs generalizing i with
  | nil => rfl
  | cons g gs ih => simpa [applyGenerators] using ih (i + 1)

/-- The selected generators are linear in the selecting bits and in what they are XORed into, whatever the list. -/
theorem applyGenerators_xor (t u : BitVec 5) (i : Nat) (gs : List Acc) (x y : Acc) :
    applyGenerators (t ^^^ u) i gs (x ^^^ y) = applyGenerators t i gs x ^^^ applyGenerators u i gs y := by
  induction gs generalizing i x y with
  | nil => rfl
  | cons g gs ih =>
    simp only [applyGenerators, BitVec.getLsbD_xor]
    rw [← ih]
    congr 1
    cases t.getLsbD i <;> cases u.getLsbD i
    · rfl
    · exact BitVec.xor_assoc x y g
    · show x ^^^ y ^^^ g = x ^^^ g ^^^ y
      ac_rfl
    · show x ^^^ y = x ^^^ g ^^^ (y ^^^ g)
      rw [show x ^^^ g ^^^ (y ^^^ g) = x ^^^ y ^^^ (g ^^^ g) by ac_rfl, BitVec.xor_self, BitVec.xor_zero]

/-- What is XORed in beforehand may be XORed in afterwards. -/
theorem applyGenerators_eq_xor (t : BitVec 5) (i : Nat) (gs : List Acc) (x : Acc) :
    applyGenerators t i gs x = applyGenerators t i gs 0#30 ^^^ x := by
  simpa [applyGenerators_zero] using applyGenerators_xor t 0#5 i gs 0#30 x

/-- The low symbols of the five generators are independent: a selection that leaves 0 there selects nothing. -/
theorem eq_zero_of_generators_low {t : BitVec 5}
    (h : (applyGenerators t 0 generators 0#30).extractLsb' 0 5 = 0#5) : t = 0#5 := by
  revert t
  decide

/-! ### The step -/

/-- Settles O43: the model's loop is five conditional XORs, one after the other. -/
theorem polymodStepFormula : Obligations.PolymodStepFormula := by
  intro acc v
  have low : (acc.extractLsb' 0 25).setWidth 30 = acc &&& 0x1ffffff := by
    apply BitVec.eq_of_toNat_eq
    rw [BitVec.toNat_and, BitVec.toNat_setWidth, BitVec.extractLsb'_toNat, Nat.shiftRight_zero,
      Nat.mod_eq_of_lt (by omega)]
    exact (Nat.and_two_pow_sub_one_eq_mod acc.toNat 25).symm
  have select (c : Bool) (x g : Acc) : (if c then x ^^^ g else x) = x ^^^ if c then g else 0#30 := by
    cases c <;> simp
  rw [polyStep, low]
  simp [generators, applyGenerators, select]

/-- The step is linear in accumulator and symbol together (R122 (a)). -/
theorem polyStep_xor (a b : Acc) (v w : Symbol) :
    polyStep (a ^^^ b) (v ^^^ w) = polyStep a v ^^^ polyStep b w := by
  rw [polyStep, polyStep, polyStep, ← applyGenerators_xor, BitVec.extractLsb'_xor, BitVec.extractLsb'_xor,
    BitVec.setWidth_xor, BitVec.setWidth_xor, BitVec.shiftLeft_xor_distrib]
  congr 1
  ac_rfl

/-- The symbol may be XORed in after the step (R122 (a)). -/
theorem polyStep_eq_xor (a : Acc) (v : Symbol) : polyStep a v = polyStep a 0#5 ^^^ v.setWidth 30 := by
  rw [polyStep, polyStep, applyGenerators_eq_xor, applyGenerators_eq_xor _ _ _ (_ ^^^ BitVec.setWidth 30 0#5)]
  simp [BitVec.xor_assoc]

/-- Settles O44. -/
theorem polymodStepIsLinear : Obligations.PolymodStepIsLinear :=
  fun a b v w => ⟨polyStep_xor a b v w, polyStep_eq_xor a v⟩

/-- The low 25 bits moved up by 5 with the symbol XORed in (R110) are those bits followed by the symbol. -/
theorem shift_xor_symbol (acc : Acc) (v : Symbol) :
    ((acc.extractLsb' 0 25).setWidth 30 <<< 5) ^^^ v.setWidth 30 = acc.extractLsb' 0 25 ++ v := by
  apply BitVec.eq_of_getLsbD_eq
  intro i hi
  rw [BitVec.getLsbD_append]
  by_cases low : i < 5
  · simp [low, hi]
  · simp [low, hi, BitVec.getLsbD_of_ge v i (by omega)]

/-- The step is one concatenation, XORed with the selected generators. -/
theorem polyStep_eq_append (acc : Acc) (v : Symbol) :
    polyStep acc v =
      applyGenerators (acc.extractLsb' 25 5) 0 generators 0#30 ^^^ (acc.extractLsb' 0 25 ++ v) := by
  rw [polyStep, applyGenerators_eq_xor, shift_xor_symbol]

/-- The bits that select generators are clear below `2^25`. -/
theorem extract_top_eq_zero_iff {acc : Acc} : acc.extractLsb' 25 5 = 0#5 ↔ acc.toNat < 2 ^ 25 := by
  rw [← BitVec.toNat_inj, BitVec.extractLsb'_toNat, Nat.shiftRight_eq_div_pow, BitVec.toNat_ofNat]
  omega

/-- There the step only packs the symbol behind the accumulator. -/
theorem toNat_polyStep {acc : Acc} (small : acc.toNat < 2 ^ 25) (v : Symbol) :
    (polyStep acc v).toNat = acc.toNat * 32 + v.toNat := by
  rw [polyStep_eq_append, extract_top_eq_zero_iff.mpr small, applyGenerators_zero, BitVec.zero_xor, BitVec.toNat_append,
    BitVec.extractLsb'_toNat, Nat.shiftRight_zero, Nat.mod_eq_of_lt small, ← Nat.shiftLeft_add_eq_or_of_lt v.isLt,
    Nat.shiftLeft_eq]

/-- Only 0 steps to 0: the low symbol says that no generator was selected, so the step only packed. -/
theorem eq_zero_of_polyStep_eq_zero {d : Acc} (h : polyStep d 0#5 = 0#30) : d = 0#30 := by
  have low : applyGenerators (d.extractLsb' 25 5) 0 generators 0#30 = d.extractLsb' 0 25 ++ 0#5 := by
    rwa [polyStep_eq_append, BitVec.xor_eq_zero_iff] at h
  have top : d.extractLsb' 25 5 = 0#5 := by
    apply eq_zero_of_generators_low
    rw [low]
    exact BitVec.extractLsb'_append_eq_right
  have packed := toNat_polyStep (extract_top_eq_zero_iff.mp top) 0#5
  rw [h] at packed
  apply BitVec.eq_of_toNat_eq
  simpa using packed.symm

/-- Different accumulators step to different ones. -/
theorem polyStep_injective (v : Symbol) : Function.Injective (polyStep · v) := by
  intro a b h
  have same : polyStep (a ^^^ b) 0#5 = 0#30 := by
    rw [← BitVec.xor_self (x := v), polyStep_xor, BitVec.xor_eq_zero_iff]
    exact h
  exact BitVec.xor_eq_zero_iff.mp (eq_zero_of_polyStep_eq_zero same)

/-- Different symbols step to different accumulators. -/
theorem polyStep_symbol_injective (acc : Acc) : Function.Injective (polyStep acc) := by
  intro x y h
  rw [polyStep_eq_xor acc x, polyStep_eq_xor acc y, BitVec.xor_right_inj] at h
  simpa using congrArg (BitVec.setWidth 5) h

/-! ### The fold -/

/-- A fold over two sequences in a row. -/
theorem polyFold_append (acc : Acc) (p q : List Symbol) : polyFold acc (p ++ q) = polyFold (polyFold acc p) q :=
  List.foldl_append

/-- A difference in the accumulator is never lost. -/
theorem polyFold_injective (e : List Symbol) : Function.Injective (polyFold · e) := by
  induction e with
  | nil => exact fun _ _ h => h
  | cons x e ih => exact fun _ _ h => polyStep_injective x (ih h)

/-- A fold from a XOR: one side takes the symbols, the other as many zeros (R122 (a), along a sequence). -/
theorem polyFold_xor (a b : Acc) (e : List Symbol) :
    polyFold (a ^^^ b) e = polyFold a (List.replicate e.length 0#5) ^^^ polyFold b e := by
  induction e generalizing a b with
  | nil => rfl
  | cons x e ih =>
    have step : polyStep (a ^^^ b) x = polyStep a 0#5 ^^^ polyStep b x := by
      rw [← polyStep_xor, BitVec.zero_xor]
    calc polyFold (polyStep (a ^^^ b) x) e
        = polyFold (polyStep a 0#5 ^^^ polyStep b x) e := by rw [step]
      _ = polyFold (polyStep a 0#5) (List.replicate e.length 0#5) ^^^ polyFold (polyStep b x) e := ih _ _

/-- The symbols of a sequence act as from accumulator 0, XORed onto the fold over as many zeros. -/
theorem polyFold_eq_xor (acc : Acc) (e : List Symbol) :
    polyFold acc e = polyFold acc (List.replicate e.length 0#5) ^^^ polyFold 0#30 e := by
  simpa using polyFold_xor acc 0#30 e

/-- Stepping over a number's next five bits undoes a shift by five. -/
theorem polyStep_shiftRight (m : Acc) (k : Nat) : polyStep (m >>> (k + 5)) (m.extractLsb' k 5) = m >>> k := by
  have halves : (m >>> (k + 5)).toNat = (m >>> k).toNat / 32 := by
    rw [BitVec.shiftRight_add, BitVec.toNat_ushiftRight, Nat.shiftRight_eq_div_pow]
  apply BitVec.eq_of_toNat_eq
  rw [toNat_polyStep (by omega), halves, BitVec.extractLsb'_toNat, ← BitVec.toNat_ushiftRight]
  omega

/-- From 0 the six symbols of a checksum give the checksum back (R114). -/
theorem polyFold_checksumSymbols (m : Acc) : polyFold 0#30 (checksumSymbols m) = m := by
  have start : 0#30 = m >>> (25 + 5) := (BitVec.ushiftRight_eq_zero le_rfl).symm
  rw [start]
  show polyStep (polyStep (polyStep (polyStep (polyStep (polyStep (m >>> (25 + 5)) _) _) _) _) _) _ = m
  rw [polyStep_shiftRight m 25, polyStep_shiftRight m 20, polyStep_shiftRight m 15, polyStep_shiftRight m 10,
    polyStep_shiftRight m 5, polyStep_shiftRight m 0, BitVec.ushiftRight_zero]

/-- From 0 a sequence of at most six symbols packs into five bits each. -/
theorem toNat_polyFold_lt (e : List Symbol) (short : e.length ≤ 6) : (polyFold 0#30 e).toNat < 32 ^ e.length := by
  induction e using List.reverseRecOn with
  | nil => decide
  | append_singleton e x ih =>
    rw [List.length_append, List.length_singleton] at short ⊢
    have before := ih (by omega)
    have small : 32 ^ e.length ≤ 32 ^ 5 := Nat.pow_le_pow_right (by omega) (by omega)
    rw [polyFold_append]
    show (polyStep (polyFold 0#30 e) x).toNat < _
    rw [toNat_polyStep (by omega), pow_succ]
    omega

/-! ### Checksums -/

/-- Settles O45, as R122 (b) argues: the created symbols in the place of the six zeros XOR the checksum onto the raw
polymod, and the checksum is the raw polymod XOR the target. -/
theorem createdChecksumVerifies : Obligations.CreatedChecksumVerifies := by
  intro h d v
  have raw : rawChecksum h d = polyFold (polymod (header h ++ d)) (List.replicate 6 0#5) :=
    polyFold_append 1 (header h ++ d) (List.replicate 6 0#5)
  have value : polymod (header h ++ (d ++ checksumSymbols (rawChecksum h d ^^^ target v))) = target v := by
    calc polymod (header h ++ (d ++ checksumSymbols (rawChecksum h d ^^^ target v)))
        = polyFold (polymod (header h ++ d)) (checksumSymbols (rawChecksum h d ^^^ target v)) := by
          rw [← List.append_assoc]; exact polyFold_append 1 (header h ++ d) _
      _ = polyFold (polymod (header h ++ d)) (List.replicate 6 0#5) ^^^ (rawChecksum h d ^^^ target v) := by
          rw [polyFold_eq_xor, polyFold_checksumSymbols]; rfl
      _ = target v := by rw [← raw, ← BitVec.xor_assoc, BitVec.xor_self, BitVec.zero_xor]
  rw [createChecksum, verifyChecksum, value, beq_self_eq_true]

/-- What separates the Bis target from the polymod of `[0]` and up to five more zeros does not fit 25 bits
(R122 (c)). -/
theorem bis_target_far_from_zeros :
    ∀ n < 6, 2 ^ 25 ≤ (polyFold (polymod [0]) (List.replicate n 0#5) ^^^ target .bis).toNat := by
  decide

/-- Settles O46, as R122 (c) argues: fewer than six symbols XOR fewer than 25 bits onto the polymod of zeros. -/
theorem shortBisSequencesFail : Obligations.ShortBisSequencesFail := by
  intro e short
  rw [verifyChecksum, beq_eq_false_iff_ne]
  intro valid
  have split : polyFold (polymod [0]) (List.replicate e.length 0#5) ^^^ polyFold 0#30 e = target .bis :=
    (polyFold_eq_xor _ e).symm.trans valid
  have far := bis_target_far_from_zeros e.length short
  rw [← split, ← BitVec.xor_assoc, BitVec.xor_self, BitVec.zero_xor] at far
  have near := toNat_polyFold_lt e (by omega)
  have small : 32 ^ e.length ≤ 32 ^ 5 := Nat.pow_le_pow_right (by omega) (by omega)
  omega

/-- A sequence around one symbol: the polymod in front of it, its step, and the fold behind it. -/
theorem polymod_around (h : List Byte) (p q : List Symbol) (x : Symbol) :
    polymod (header h ++ (p ++ x :: q)) = polyFold (polyStep (polymod (header h ++ p)) x) q := by
  rw [← List.append_assoc]
  exact polyFold_append 1 (header h ++ p) (x :: q)

/-- Settles O47: the step over the symbol and every step behind it keep the two sequences apart. -/
theorem singleSymbolErrorIsDetected : Obligations.SingleSymbolErrorIsDetected := by
  intro h p q x y v differ valid
  rw [verifyChecksum, beq_iff_eq, polymod_around] at valid
  rw [verifyChecksum, beq_eq_false_iff_ne, polymod_around]
  intro other
  exact differ (polyStep_symbol_injective _ (polyFold_injective q (valid.trans other.symm)))

end Sys2Proof.Machine
end

section
/-! The checksum commands (41_polymod.md R116 to R121). A check that fails ends the command with its error, whatever stands
behind it (`settle_fails`); a command over a symbol operand fails at the first byte that is none (`settle_badSymbol`), or
does its work on the symbols (`settle_symbols`). What a completed work leaves is said once for a command that writes ACC,
for one without output and for one with output. -/

namespace Sys2Proof.Machine

/-! ### The end of a sequence of checks -/

/-- A command whose first check fails ends with the error of it. -/
theorem settle_fails {α : Type} {s : State} {check : Except CmdError α} {e : CmdError} (work : α → Except CmdError State)
    (failed : check = .error e) :
    ∃ t, settle s (check >>= work) = .next t ∧ Fails s t e.code e.detail e.frag e.field := by
  rw [bind_eq_error.mpr (.inl failed)]
  exact ⟨raiseError e s, settle_error s e, fails_raiseError e s⟩

/-! ### Checks that fail -/

/-- `BLEN > IN_BYTES` (R95). -/
theorem checkBlen_eq_error {s : State} (long : s.params.inBytes < s.blen.toNat) :
    checkBlen s = .error (argError 2 noFrag) :=
  require_eq_error.mpr ⟨decide_eq_false (by omega), rfl⟩

/-- `ALEN > IN_BYTES` (R95). -/
theorem checkAlen_eq_error {s : State} (long : s.params.inBytes < s.alen.toNat) :
    checkAlen s = .error (argError 1 noFrag) :=
  require_eq_error.mpr ⟨decide_eq_false (by omega), rfl⟩

/-- `ALEN + BLEN > IN_BYTES` (R95). -/
theorem checkBoth_eq_error {s : State} (long : s.params.inBytes < s.alen.toNat + s.blen.toNat) :
    checkBoth s = .error (argError 3 noFrag) :=
  require_eq_error.mpr ⟨decide_eq_false (by omega), rfl⟩

/-- The output exceeds OUT_BYTES (R96). -/
theorem checkOut_eq_error {s : State} {x : List Byte} (long : s.params.outBytes < x.length) :
    checkOut s x = .error ⟨.outOverflow, 1, noFrag, 0⟩ :=
  require_eq_error.mpr ⟨decide_eq_false (by omega), rfl⟩

/-- A symbol operand fails at its first byte above 31, whose index the error reports (R118). -/
theorem symbolOperand_eq_error {bs : List Byte} {i : Nat} (k : Nat) (bad : FirstBadSymbol bs i) :
    symbolOperand k bs = .error ⟨.invalidSymbol, k + i, noFrag, 0⟩ := by
  obtain ⟨inside, above, before⟩ := bad
  induction bs generalizing i k with
  | nil => exact absurd inside (Nat.not_lt_zero i)
  | cons b rest ih =>
    cases i with
    | zero => exact if_pos above
    | succ i =>
      have first : ¬ 31 < b.toNat := Nat.not_lt.mpr (before 0 i.succ_pos)
      have tail := ih (k + 1) (Nat.lt_of_succ_lt_succ inside) above fun j hj => before (j + 1) (Nat.succ_lt_succ hj)
      rw [symbolOperand, if_neg first, tail, Nat.add_right_comm, Nat.add_assoc]

/-- A command over a symbol operand, whose argument check holds, fails at the first byte that is no symbol. -/
theorem settle_badSymbol {s : State} {check : Except CmdError Unit} {bs : List Byte} {i : Nat}
    (work : List Symbol → Except CmdError State) (holds : check = .ok ()) (bad : FirstBadSymbol bs i) :
    ∃ t, settle s (check >>= fun _ => symbolOperand 0 bs >>= work) = .next t ∧ Fails s t .invalidSymbol i 0xFF 0 := by
  have failed := symbolOperand_eq_error 0 bad
  rw [Nat.zero_add] at failed
  rw [holds]
  exact settle_fails work failed

/-- Where every byte is a symbol, such a command does its work on the symbols. -/
theorem settle_symbols {s : State} {check : Except CmdError Unit} {bs : List Byte}
    (work : List Symbol → Except CmdError State) (holds : check = .ok ()) (symbols : AllSymbols bs) :
    settle s (check >>= fun _ => symbolOperand 0 bs >>= work) = settle s (work (asSymbols bs)) := by
  rw [holds, symbolOperand_eq_ok.mpr ⟨symbols, rfl⟩]
  rfl

/-! ### Works that complete -/

/-- Completion of a work that keeps the frame is a success (R92, R93). -/
theorem succeeds_complete {s u : State} (frame : CommandFrame s u) : Succeeds s (complete u) where
  eng := rfl
  done := rfl
  errcode := rfl
  errInfo := rfl
  frame := frame.complete

/-- A work that only writes ACC (R116 to R118). -/
theorem succeeds_acc (s : State) (a : Acc) :
    Succeeds s (complete { s.spoilOut with acc := a }) ∧ KeepsResults s (complete { s.spoilOut with acc := a }) ∧
      (complete { s.spoilOut with acc := a }).acc = a :=
  ⟨succeeds_complete (commandFrame_spoilOut s a s.res0 s.res1 s.res2), keepsResults_of_eq rfl rfl rfl rfl, rfl⟩

/-- A work that only writes result words. -/
theorem succeeds_results (s : State) (r0 r1 r2 : Word) : Succeeds s (complete (s.spoilOut.results r0 r1 r2)) :=
  succeeds_complete (commandFrame_spoilOut s s.acc r0 r1 r2)

/-- A work with output. -/
theorem succeeds_outWrite (s : State) (x : List Byte) (r0 r1 r2 : Word) :
    Succeeds s (complete ((s.outWrite x).results r0 r1 r2)) :=
  succeeds_complete (commandFrame_outWrite s x r0 r1 r2)

/-- Its output is what stands in OUTBUF and OUT_LEN afterwards. -/
theorem outputs_outWrite (s : State) (x : List Byte) (r0 r1 r2 : Word) :
    Outputs (complete ((s.outWrite x).results r0 r1 r2)) x :=
  ⟨rfl, fun _ h => (State.byteAt_congr rfl rfl rfl _).trans (s.outByteAt_outWrite x h)⟩

/-! ### Symbols as bytes -/

/-- A symbol out of a number, as a byte of OUTBUF. -/
theorem setWidth_extract_symbol (m : Acc) (k : Nat) : (m.extractLsb' k 5).setWidth 8 = (m >>> k &&& 31).setWidth 8 := by
  apply BitVec.eq_of_toNat_eq
  rw [BitVec.toNat_setWidth, BitVec.extractLsb'_toNat, BitVec.toNat_setWidth, BitVec.toNat_and, BitVec.toNat_ushiftRight]
  exact congrArg (· % 2 ^ 8) (Nat.and_two_pow_sub_one_eq_mod (m.toNat >>> k) 5).symm

/-- Byte `k` of the six symbols of a checksum is its group of bits from `25 - 5k` on (R114). -/
theorem getElem_symbolBytes_checksum (m : Acc) {k : Nat} (hk : k < (symbolBytes (checksumSymbols m)).length) :
    (symbolBytes (checksumSymbols m))[k] = (m >>> (25 - 5 * k) &&& 31).setWidth 8 := by
  rw [← setWidth_extract_symbol]
  match k, hk with
  | 0, _ | 1, _ | 2, _ | 3, _ | 4, _ | 5, _ => rfl

/-- The expansion of R112 as bytes: the high bits, a zero, the low bits. -/
theorem symbolBytes_expand (h : List Byte) :
    symbolBytes (expand h) = h.map (fun b : Byte => b >>> 5) ++ 0 :: h.map (fun b : Byte => b &&& 31) := by
  have high : ∀ b : Byte, (highBits b).setWidth 8 = b >>> 5 := by decide
  have low : ∀ b : Byte, (lowBits b).setWidth 8 = b &&& 31 := by decide
  simp [symbolBytes, expand, high, low, Function.comp_def]

/-- The operand of ALEN bytes is the start of INBUF. -/
theorem State.getElem_hrpBytes (s : State) {i : Nat} (hi : i < s.hrpBytes.length) : s.hrpBytes[i] = s.inByte i := by
  simp [State.hrpBytes]

/-! ### POLY.INIT, POLY.STEP, POLY.RUN -/

/-- Settles O31. -/
theorem polyInitSetsAccToOne : Obligations.PolyInitSetsAccToOne :=
  ⟨fun _ opcode low high => decode_of_some low high opcode rfl, fun s => ⟨_, execPolyInit_eq s, succeeds_acc s 1⟩⟩

/-- Settles O32: the word carries a five-bit symbol, which is the one that the step takes. -/
theorem polyStepAdvancesAcc : Obligations.PolyStepAdvancesAcc := by
  refine ⟨fun w opcode low high => decode_of_some low high opcode rfl, fun s x => ?_⟩
  have run := execPolyStep_eq x.toNat s
  rw [BitVec.ofNat_toNat, BitVec.setWidth_eq] at run
  exact ⟨_, run, succeeds_acc s (polyStep s.acc x)⟩

/-- Settles O33. -/
theorem polyRunFoldsOperand : Obligations.PolyRunFoldsOperand := by
  refine ⟨fun w opcode low high => decode_of_some low high opcode rfl, fun s => ⟨fun long => ?_, fun i fits bad => ?_,
    fun fits symbols => ?_⟩⟩
  · exact settle_fails _ (checkBlen_eq_error long)
  · exact settle_badSymbol _ (checkBlen_eq_ok.mpr fits) bad
  · exact ⟨_, settle_symbols _ (checkBlen_eq_ok.mpr fits) symbols, succeeds_acc s (polyFold s.acc _)⟩

/-! ### HRP.EXPAND -/

/-- HRP.EXPAND with an operand that fits INBUF is left to the capacity check (R119). -/
theorem execHrpExpand_fits {s : State} (fits : s.alen.toNat ≤ s.params.inBytes) :
    execHrpExpand s = settle s (checkOut s (symbolBytes (expand s.hrpBytes)) >>= fun _ =>
      .ok (s.outWrite (symbolBytes (expand s.hrpBytes)))) := by
  rw [execHrpExpand, checkAlen_eq_ok (u := ()).mpr fits]
  rfl

/-- Settles O34: OUTBUF holds the expansion as `symbolBytes_expand` lists it, and each index falls in one of its parts. -/
theorem hrpExpandWritesExpansion : Obligations.HrpExpandWritesExpansion := by
  refine ⟨fun w opcode low high => decode_of_some low high opcode rfl, fun s => ?_⟩
  have length : (symbolBytes (expand s.hrpBytes)).length = 2 * s.alen.toNat + 1 := by
    simp [symbolBytes_expand]
    omega
  refine ⟨fun long => settle_fails _ (checkAlen_eq_error long), fun fits long => ?_, fun fits room => ?_⟩
  · rw [show exec .hrpExpand s = _ from execHrpExpand_fits fits]
    exact settle_fails _ (checkOut_eq_error (by omega))
  · rw [show exec .hrpExpand s = _ from execHrpExpand_fits fits, checkOut_eq_ok (u := ()).mpr (by omega)]
    obtain ⟨outLen, bytes⟩ := outputs_outWrite s (symbolBytes (expand s.hrpBytes)) s.res0 s.res1 s.res2
    refine ⟨_, rfl, succeeds_outWrite s _ s.res0 s.res1 s.res2, rfl, ⟨rfl, fun issued => issued.res0⟩,
      ⟨rfl, fun issued => issued.res1⟩, ⟨rfl, fun issued => issued.res2⟩, length ▸ outLen, fun i hi => ?_, ?_,
      fun i hi => ?_⟩
    · exact (bytes i (by omega)).trans (by simp [symbolBytes_expand, hi, State.getElem_hrpBytes])
    · exact (bytes s.alen.toNat (by omega)).trans (by simp [symbolBytes_expand])
    · rw [show s.alen.toNat + 1 + i = s.alen.toNat + (i + 1) by omega]
      exact (bytes _ (by omega)).trans (by simp [symbolBytes_expand, State.getElem_hrpBytes])

/-! ### CHK.CREATE and CHK.VERIFY -/

/-- CHK.CREATE of a variant runs CHK_CREATE with it (R120). -/
theorem exec_chkCreateOf (v : Variant) (s : State) : exec (chkCreateOf v) s = chkCreate v s := by cases v <;> rfl

/-- CHK.VERIFY of a variant runs CHK_VERIFY with it (R121). -/
theorem exec_chkVerifyOf (v : Variant) (s : State) : exec (chkVerifyOf v) s = chkVerify v s := by cases v <;> rfl

/-- The word with opcode 5 and the VAR of a variant is CHK.CREATE of it. -/
theorem encodedByVar_chkCreateOf (v : Variant) : EncodedByVar 0x05 (isBis v) (chkCreateOf v) :=
  fun _ opcode var low high => decode_of_some low high opcode (by rw [var]; cases v <;> rfl)

/-- The word with opcode 6 and the VAR of a variant is CHK.VERIFY of it. -/
theorem encodedByVar_chkVerifyOf (v : Variant) : EncodedByVar 0x06 (isBis v) (chkVerifyOf v) :=
  fun _ opcode var low high => decode_of_some low high opcode (by rw [var]; cases v <;> rfl)

/-- Settles O35: RES1 is the checksum XOR the target again, which is the raw polymod. -/
theorem chkCreateMakesChecksum : Obligations.ChkCreateMakesChecksum := by
  refine fun v => ⟨encodedByVar_chkCreateOf v, fun s => ?_⟩
  rw [exec_chkCreateOf]
  refine ⟨fun long => settle_fails _ (checkBoth_eq_error long),
    fun i fits bad => settle_badSymbol _ (checkBoth_eq_ok.mpr fits) bad, fun p m fits symbols raw sum => ?_⟩
  obtain ⟨outLen, bytes⟩ := outputs_outWrite s (symbolBytes (checksumSymbols m)) (accWord m) (accWord (m ^^^ target v))
    s.res2
  have res1 : m ^^^ target v = p := by rw [sum, BitVec.xor_assoc, BitVec.xor_self, BitVec.xor_zero]
  have create : createChecksum s.hrpBytes (asSymbols s.tailBytes) v = (m, checksumSymbols m) := by
    rw [sum, raw]; rfl
  refine ⟨complete ((s.outWrite (symbolBytes (checksumSymbols m))).results (accWord m) (accWord (m ^^^ target v)) s.res2),
    ?_, succeeds_outWrite s _ _ _ _, rfl, outLen, fun k hk => (bytes k hk).trans (getElem_symbolBytes_checksum m hk), rfl,
    congrArg accWord res1, ⟨rfl, fun issued => issued.res2⟩⟩
  rw [chkCreate, settle_symbols _ (checkBoth_eq_ok.mpr fits) symbols, create]
  rfl

/-- Settles O36. -/
theorem chkVerifyReportsChecksum : Obligations.ChkVerifyReportsChecksum := by
  refine fun v => ⟨encodedByVar_chkVerifyOf v, fun s => ?_⟩
  rw [exec_chkVerifyOf]
  refine ⟨fun long => settle_fails _ (checkBoth_eq_error long),
    fun i fits bad => settle_badSymbol _ (checkBoth_eq_ok.mpr fits) bad, fun p fits symbols value => ?_⟩
  have verify : verifyChecksum s.hrpBytes (asSymbols s.tailBytes) v = (p == target v, p) := by rw [value]; rfl
  refine ⟨complete (s.spoilOut.results (if p == target v then 1 else 0) (accWord p) s.res2), ?_,
    succeeds_results s _ _ _, rfl, ⟨rfl, fun issued => issued.outLen⟩, fun right => if_pos (beq_iff_eq.mpr right),
    fun wrong => if_neg (mt beq_iff_eq.mp wrong), rfl, ⟨rfl, fun issued => issued.res2⟩⟩
  rw [chkVerify, settle_symbols _ (checkBoth_eq_ok.mpr fits) symbols, verify]
  rfl

end Sys2Proof.Machine
end

section
/-! The text codec (42_base32.md R130 to R136, R145). `Val` and `Sym` are inverse on the alphabet, which holds neither
uppercase letters nor the separator. Each check of the decoder is tied to the words that describe it, and the round
trips follow from the last clause of the decoder and the fact that a created checksum verifies. -/

namespace Sys2Proof.Machine

/-! ### The symbol table -/

/-- `Val` finds every symbol's own byte (R131). -/
@[simp] theorem val_sym (x : Symbol) : val (sym x) = some x := by revert x; decide

/-- What `Val` finds in the table is the symbol of the byte (R131). -/
theorem sym_of_val {b : Byte} {x : Symbol} (h : val b = some x) : sym x = b := by
  unfold val at h
  split at h
  next i found =>
    obtain ⟨inside, same, -⟩ := List.findIdx?_eq_some_iff_getElem.mp found
    have small : i < 2 ^ 5 := inside
    obtain rfl := Option.some.inj h
    rw [sym, BitVec.toNat_ofNat, Nat.mod_eq_of_lt small, List.getD_eq_getElem _ _ inside]
    exact eq_of_beq same
  next => exact absurd h (by simp)

/-- `Val` is NONE on the bytes that no symbol has (R131). -/
theorem val_eq_none {b : Byte} (absent : ∀ x : Symbol, sym x ≠ b) : val b = none :=
  Option.eq_none_iff_forall_ne_some.mpr fun x found => absent x (sym_of_val found)

/-- Settles O48. -/
theorem valInvertsSym : Obligations.ValInvertsSym :=
  ⟨by decide, val_sym, fun _ _ => sym_of_val, fun _ => val_eq_none⟩

/-- The alphabet is printable. -/
theorem sym_inRange (x : Symbol) : 33 ≤ (sym x).toNat ∧ (sym x).toNat ≤ 126 := by revert x; decide

/-- The alphabet has no uppercase letter. -/
theorem sym_notUpper (x : Symbol) : ¬ (65 ≤ (sym x).toNat ∧ (sym x).toNat ≤ 90) := by revert x; decide

/-- The alphabet does not hold the separator. -/
theorem sym_ne_separator (x : Symbol) : sym x ≠ separator := by revert x; decide

/-! ### Lowercasing -/

/-- Lowercasing leaves what is no uppercase letter. -/
theorem lower_of_notUpper {b : Byte} (h : ¬ (65 ≤ b.toNat ∧ b.toNat ≤ 90)) : lower b = b := by
  have no : isUpper b = false := by simpa [isUpper] using h
  rw [lower, no]
  rfl

/-- Only the separator lowercases to it. -/
theorem lower_eq_separator {b : Byte} : lower b = separator ↔ b = separator := by revert b; decide

/-- A text without uppercase letters is its own lowercase text. -/
theorem map_lower_of_notUpper {t : List Byte} (h : ∀ b ∈ t, ¬ (65 ≤ b.toNat ∧ b.toNat ≤ 90)) : t.map lower = t :=
  (List.map_congr_left fun b hb => lower_of_notUpper (h b hb)).trans t.map_id

/-- Lowercasing a text neither makes nor loses a separator. -/
theorem separator_mem_map_lower {t : List Byte} : separator ∈ t.map lower ↔ separator ∈ t := by
  simp only [List.mem_map, lower_eq_separator, exists_eq_right]

/-! ### The checks of the decoder -/

/-- The search for the first byte that meets a test finds the first index in the sense of the statements. -/
theorem findIdx?_eq_some_of_firstIndex {p : Byte → Bool} {P : Byte → Prop} (test : ∀ b, p b = true ↔ P b)
    {t : List Byte} {i : Nat} (first : FirstIndex P t i) : t.findIdx? p = some i := by
  obtain ⟨inside, found, before⟩ := first
  exact List.findIdx?_eq_some_iff_getElem.mpr
    ⟨inside, (test _).mpr found, fun j hj => by simpa [test] using before j hj⟩

/-- The character range check in words (R134). -/
theorem not_inCharRange_iff (b : Byte) : (!inCharRange b) = true ↔ b.toNat < 33 ∨ 126 < b.toNat := by
  rw [inCharRange, Bool.not_and, Bool.or_eq_true]
  simp

/-- It passes when every byte is in range. -/
theorem findIdx?_inCharRange_eq_none {t : List Byte} (inRange : AllInRange t) :
    t.findIdx? (fun b => !inCharRange b) = none :=
  List.findIdx?_eq_none_iff.mpr fun b hb => by simp [inCharRange, inRange b hb]

/-- The case check in words (R134). -/
theorem mixedCase_iff (t : List Byte) : (t.any isLower && t.any isUpper) = true ↔ MixedCase t := by
  simp [isLower, isUpper, MixedCase]

/-- A byte that is not there has no last index. -/
theorem lastIndexOf_eq_none {b : Byte} {t : List Byte} (absent : b ∉ t) : lastIndexOf b t = none := by
  induction t with
  | nil => rfl
  | cons x xs ih =>
    rw [List.mem_cons, not_or] at absent
    rw [lastIndexOf, ih absent.2]
    exact if_neg (Ne.symm absent.1)

/-- The last index of a byte is that of an occurrence with none behind it. -/
theorem lastIndexOf_append_cons {b : Byte} (p : List Byte) {q : List Byte} (absent : b ∉ q) :
    lastIndexOf b (p ++ b :: q) = some p.length := by
  induction p with
  | nil => simp [lastIndexOf, lastIndexOf_eq_none absent]
  | cons x xs ih => simp [lastIndexOf, ih]

/-- The last separator of a text cuts it in two. -/
theorem LastSeparator.cut {t : List Byte} {pos : Nat} (last : LastSeparator t pos) :
    t = t.take pos ++ separator :: t.drop (pos + 1) ∧ separator ∉ t.drop (pos + 1) := by
  obtain ⟨inside, here, behind⟩ := last
  refine ⟨?_, fun mem => ?_⟩
  · rw [separator, ← here, List.getElem_cons_drop, List.take_append_drop]
  · obtain ⟨j, hj, same⟩ := List.mem_iff_getElem.mp mem
    rw [List.length_drop] at hj
    rw [List.getElem_drop] at same
    exact behind (pos + 1 + j) (by omega) (by omega) same

/-- Lowercasing keeps the last separator in its place. -/
theorem LastSeparator.lastIndexOf_lower {t : List Byte} {pos : Nat} (last : LastSeparator t pos) :
    lastIndexOf separator (t.map lower) = some pos := by
  obtain ⟨cut, absent⟩ := last.cut
  have lowered : t.map lower = (t.take pos).map lower ++ separator :: (t.drop (pos + 1)).map lower := by
    conv_lhs => rw [cut, List.map_append, List.map_cons, lower_eq_separator.mpr rfl]
  obtain ⟨inside, -, -⟩ := last
  rw [lowered, lastIndexOf_append_cons _ (mt separator_mem_map_lower.mp absent), List.length_map,
    List.length_take_of_le inside.le]

/-- The symbols of a text that has them (R134). -/
theorem textSymbols_map_sym (k : Nat) (e : List Symbol) : textSymbols k (e.map sym) = .ok e := by
  induction e generalizing k with
  | nil => rfl
  | cons x xs ih => simp [textSymbols, ih]

/-- A text has no symbols from its first byte that is not in the alphabet on (R134). -/
theorem textSymbols_eq_error {t : List Byte} {i : Nat} (k : Nat) (first : FirstIndex NotInAlphabet t i) :
    textSymbols k (t.map lower) = .error ⟨.notInAlphabet, k + i⟩ := by
  obtain ⟨inside, bad, before⟩ := first
  induction t generalizing i k with
  | nil => exact absurd inside (Nat.not_lt_zero i)
  | cons b rest ih =>
    cases i with
    | zero =>
      have noSymbol : val (lower b) = none := val_eq_none bad
      simp only [List.map_cons, textSymbols, noSymbol, Nat.add_zero]
    | succ i =>
      obtain ⟨x, hx⟩ : ∃ x : Symbol, sym x = lower b := by simpa [NotInAlphabet] using before 0 i.succ_pos
      have tail := ih (k + 1) (Nat.lt_of_succ_lt_succ inside) bad fun j hj => before (j + 1) (Nat.succ_lt_succ hj)
      rw [List.map_cons, textSymbols, ← hx, val_sym, tail, Nat.add_right_comm, Nat.add_assoc]

/-- A wrong checksum (R134). -/
theorem checkedData_eq_error {h : List Byte} {e : List Symbol} {v : Variant}
    (wrong : polymod (header h ++ e) ≠ target v) : checkedData h e v = .error ⟨.invalidChecksum, 0⟩ :=
  if_neg (mt eq_of_beq wrong)

/-- A right checksum (R134). -/
theorem checkedData_eq_ok {h : List Byte} {e : List Symbol} {v : Variant}
    (right : polymod (header h ++ e) = target v) : checkedData h e v = .ok ⟨h, e.take (e.length - 6), v⟩ :=
  if_pos (beq_iff_eq.mpr right)

/-! ### The decoder -/

/-- A text that passes the character checks is decoded in the prefixed form when it has a separator (R134). -/
theorem bech32Decode_prefixed {t : List Byte} {pos : Nat} (plain : PlainText t) (last : LastSeparator t pos) :
    bech32Decode t = decodeOrigin (t.map lower) pos := by
  obtain ⟨inRange, oneCase⟩ := plain
  rw [bech32Decode, findIdx?_inCharRange_eq_none inRange]
  refine (if_neg (mt (mixedCase_iff t).mp oneCase)).trans ?_
  rw [last.lastIndexOf_lower]

/-- Otherwise the whole text is symbols (R134). -/
theorem bech32Decode_prefixless {t : List Byte} (plain : PlainText t) (absent : separator ∉ t) :
    bech32Decode t = decodeBis (t.map lower) := by
  obtain ⟨inRange, oneCase⟩ := plain
  rw [bech32Decode, findIdx?_inCharRange_eq_none inRange]
  refine (if_neg (mt (mixedCase_iff t).mp oneCase)).trans ?_
  rw [lastIndexOf_eq_none (mt separator_mem_map_lower.mp absent)]

/-- The prefixed form past its position and length checks (R134). -/
theorem decodeOrigin_fits {u : List Byte} {pos : Nat} (head : 1 ≤ pos) (tail : pos + 7 ≤ u.length)
    (limit : u.length ≤ 90) {r : Except CodecFail (List Symbol)}
    (symbols : textSymbols (pos + 1) (u.drop (pos + 1)) = r) :
    decodeOrigin u pos = r.bind fun e => checkedData (u.take pos) e .origin := by
  have short : ¬ lengthLimit < u.length := Nat.not_lt.mpr limit
  rw [decodeOrigin, if_neg (by omega), if_neg (by omega), if_neg short, symbols]
  cases r <;> rfl

/-- Settles O49, one clause per check. -/
theorem decoderChecksInOrder : Obligations.DecoderChecksInOrder := by
  refine fun t => ⟨fun i first => ?range, fun inRange mixed => ?case, fun pos plain last => ?prefixed,
    fun plain absent => ?prefixless⟩
  case range => rw [bech32Decode, findIdx?_eq_some_of_firstIndex not_inCharRange_iff first]
  case case =>
    rw [bech32Decode, findIdx?_inCharRange_eq_none inRange]
    exact if_pos ((mixedCase_iff t).mpr mixed)
  case prefixed =>
    rw [bech32Decode_prefixed plain last]
    have length : (t.map lower).length = t.length := List.length_map _
    refine ⟨fun start => if_pos start, fun head short => ?_, fun head tail long => ?_,
      fun i head tail limit first => ?_, fun e head tail limit symbols => ?_⟩
    · rw [decodeOrigin, if_neg (by omega), if_pos (by omega)]
    · rw [decodeOrigin, if_neg (by omega), if_neg (by omega), if_pos (length.symm ▸ long), length]
    · have failed := textSymbols_eq_error (pos + 1) first
      rw [List.map_drop] at failed
      rw [decodeOrigin_fits head (by omega) (by omega) failed]
      rfl
    · have read := textSymbols_map_sym (pos + 1) e
      rw [show e.map sym = _ from symbols, List.map_drop] at read
      rw [decodeOrigin_fits head (by omega) (by omega) read, ← List.map_take]
      exact ⟨fun wrong => checkedData_eq_error wrong, fun right => checkedData_eq_ok right⟩
  case prefixless =>
    rw [bech32Decode_prefixless plain absent, decodeBis]
    refine ⟨fun i first => ?_, fun e symbols => ?_⟩
    · rw [textSymbols_eq_error 0 first, Nat.zero_add]
    · have length : e.length = t.length := by simpa using congrArg List.length (show e.map sym = _ from symbols)
      rw [← show e.map sym = _ from symbols, textSymbols_map_sym, ← length]
      exact ⟨fun wrong => checkedData_eq_error (h := []) wrong, fun right => checkedData_eq_ok (h := []) right⟩

/-! ### Round trips -/

/-- A text without uppercase letters does not mix cases. -/
theorem plainText_of_notUpper {t : List Byte} (inRange : AllInRange t)
    (notUpper : ∀ b ∈ t, ¬ (65 ≤ b.toNat ∧ b.toNat ≤ 90)) : PlainText t :=
  ⟨inRange, fun ⟨_, b, hb, upper⟩ => notUpper b hb upper⟩

/-- The characters of symbols are printable, lowercase and no separator. -/
theorem of_mem_map_sym {e : List Symbol} {b : Byte} (h : b ∈ e.map sym) :
    (33 ≤ b.toNat ∧ b.toNat ≤ 126) ∧ ¬ (65 ≤ b.toNat ∧ b.toNat ≤ 90) ∧ b ≠ separator := by
  obtain ⟨x, -, rfl⟩ := List.mem_map.mp h
  exact ⟨sym_inRange x, sym_notUpper x, sym_ne_separator x⟩

/-- So the text of symbols is its own lowercase text. -/
theorem map_lower_map_sym (e : List Symbol) : (e.map sym).map lower = e.map sym :=
  map_lower_of_notUpper fun _ hb => (of_mem_map_sym hb).2.1

/-- Data followed by its created checksum has the target as its polymod (R122). -/
theorem polymod_created (h : List Byte) (d : List Symbol) (v : Variant) :
    polymod (header h ++ (d ++ (createChecksum h d v).2)) = target v :=
  congrArg Prod.snd (createdChecksumVerifies h d v)

/-- Dropping the checksum leaves the data. -/
theorem take_created (h : List Byte) (d : List Symbol) (v : Variant) :
    (d ++ (createChecksum h d v).2).take ((d ++ (createChecksum h d v).2).length - 6) = d :=
  List.take_left' (by simp)

/-- A separator with none behind it is the last one. -/
theorem lastSeparator_append_cons (p : List Byte) {q : List Byte} (absent : separator ∉ q) :
    LastSeparator (p ++ separator :: q) p.length := by
  refine ⟨by simp, by simp [separator], fun j hj behind same => absent ?_⟩
  obtain ⟨k, rfl⟩ : ∃ k, j = p.length + (k + 1) := ⟨j - p.length - 1, by omega⟩
  simp only [List.getElem_append_right (Nat.le_add_right ..), Nat.add_sub_cancel_left, List.getElem_cons_succ] at same
  exact List.mem_of_getElem same

/-- Settles O52: the separator that was written is the last one, since the alphabet has none, and the decoder's last
clause applies. -/
theorem originTextRoundTrips : Obligations.OriginTextRoundTrips := by
  intro h d inRange notUpper nonempty limit
  set e := d ++ (createChecksum h d .origin).2 with he
  set t := h ++ separator :: e.map sym with ht
  have text : (bech32Encode h d .origin).1 = t := by
    rw [bech32Encode, bech32Text, if_pos (Nat.pos_of_ne_zero (by omega)), List.append_assoc]
    rfl
  have length : t.length = h.length + 1 + d.length + 6 := by
    simp [ht, he]
    omega
  have all : ∀ {P : Byte → Prop}, (∀ b ∈ h, P b) → P separator → (∀ b ∈ e.map sym, P b) → ∀ b ∈ t, P b := by
    intro P inPrefix atSeparator inData
    exact List.forall_mem_append.mpr ⟨inPrefix, List.forall_mem_cons.mpr ⟨atSeparator, inData⟩⟩
  have plain : PlainText t := plainText_of_notUpper (all inRange (by decide) fun _ hb => (of_mem_map_sym hb).1)
    (all notUpper (by decide) fun _ hb => (of_mem_map_sym hb).2.1)
  have last : LastSeparator t h.length := lastSeparator_append_cons h fun mem => (of_mem_map_sym mem).2.2 rfl
  have head : (t.take h.length).map lower = h := by rw [ht, List.take_left, map_lower_of_notUpper notUpper]
  have tail : t.drop (h.length + 1) = e.map sym := by simp [ht]
  obtain ⟨-, -, prefixed, -⟩ := decoderChecksInOrder t
  obtain ⟨-, -, -, -, decoded⟩ := prefixed h.length plain last
  have answer := decoded e nonempty (by omega) (by omega) (tail ▸ (map_lower_map_sym e).symm)
  rw [head, take_created] at answer
  exact text ▸ answer.2 (polymod_created h d .origin)

/-- Settles O53. -/
theorem bisTextRoundTrips : Obligations.BisTextRoundTrips := by
  intro d
  set e := d ++ (createChecksum [] d .bis).2
  have plain : PlainText (e.map sym) :=
    plainText_of_notUpper (fun _ hb => (of_mem_map_sym hb).1) fun _ hb => (of_mem_map_sym hb).2.1
  have absent : separator ∉ e.map sym := fun mem => (of_mem_map_sym mem).2.2 rfl
  obtain ⟨-, -, -, prefixless⟩ := decoderChecksInOrder (e.map sym)
  obtain ⟨-, decoded⟩ := prefixless plain absent
  have answer := (decoded e (map_lower_map_sym e).symm).2 (polymod_created [] d .bis)
  rwa [List.length_map, take_created] at answer

end Sys2Proof.Machine
end

section
/-! The regrouping of bytes and symbols (42_base32.md R137, R138). Both loops keep the sequence of bits: the groups
they have put out, read most significant bit first, and the bits still pending are the bits that came in. So packing
pads the bits of the bytes with zeros, unpacking splits the bits of the symbols into bytes and a rest, and the two are
inverse. -/

namespace Sys2Proof.Machine

/-! ### Bits, most significant first -/

/-- The low `n` bits of a word, most significant first. -/
def msbBits {w : Nat} : Nat → BitVec w → List Bool
  | 0, _ => []
  | n + 1, x => x.getLsbD n :: msbBits n x

/-- The bits of a sequence of words, the first word first. -/
def bitStream {w : Nat} (xs : List (BitVec w)) : List Bool := xs.flatMap (msbBits w)

@[simp] theorem length_msbBits {w : Nat} (n : Nat) (x : BitVec w) : (msbBits n x).length = n := by
  induction n with
  | zero => rfl
  | succ n ih => rw [msbBits, List.length_cons, ih]

/-- Bit `k` from the top of `n`. -/
theorem getElem?_msbBits {w n k : Nat} (x : BitVec w) (hk : k < n) :
    (msbBits n x)[k]? = some (x.getLsbD (n - 1 - k)) := by
  induction n generalizing k with
  | zero => omega
  | succ n ih =>
    cases k with
    | zero => rfl
    | succ k =>
      rw [msbBits, List.getElem?_cons_succ, ih (by omega)]
      congr 2
      omega

/-- They are the low `n` bits, no more and no less. -/
theorem msbBits_eq_iff {v w n : Nat} {x : BitVec v} {y : BitVec w} :
    msbBits n x = msbBits n y ↔ ∀ i, i < n → x.getLsbD i = y.getLsbD i := by
  refine ⟨fun same i hi => ?_, fun same => ?_⟩
  · have bit : (msbBits n x)[n - 1 - i]? = (msbBits n y)[n - 1 - i]? := congrArg (·[n - 1 - i]?) same
    rw [getElem?_msbBits x (by omega), getElem?_msbBits y (by omega), show n - 1 - (n - 1 - i) = i by omega] at bit
    exact Option.some.inj bit
  · induction n with
    | zero => rfl
    | succ n ih => rw [msbBits, msbBits, same n n.lt_succ_self, ih fun i hi => same i (by omega)]

/-- The bits of zero. -/
theorem msbBits_zero (w n : Nat) : msbBits n 0#w = List.replicate n false := by
  induction n with
  | zero => rfl
  | succ n ih => rw [msbBits, ih, BitVec.getLsbD_zero, List.replicate_succ]

/-- The same of numbers: the low `n` bits are the remainder by `2 ^ n`. -/
theorem toNat_mod_two_pow_congr {v w n : Nat} {x : BitVec v} {y : BitVec w}
    (same : ∀ i, i < n → x.getLsbD i = y.getLsbD i) : x.toNat % 2 ^ n = y.toNat % 2 ^ n := by
  refine Nat.eq_of_testBit_eq fun i => ?_
  rw [Nat.testBit_mod_two_pow, Nat.testBit_mod_two_pow, BitVec.testBit_toNat, BitVec.testBit_toNat]
  by_cases hi : i < n
  · rw [same i hi]
  · simp [hi]

/-- The top bits, then the rest. -/
theorem msbBits_add {w : Nat} (m n : Nat) (x : BitVec w) : msbBits (m + n) x = msbBits m (x >>> n) ++ msbBits n x := by
  induction m with
  | zero => rw [Nat.zero_add]; rfl
  | succ m ih =>
    rw [Nat.succ_add, msbBits, ih, msbBits, BitVec.getLsbD_ushiftRight, Nat.add_comm n m]
    rfl

/-- Truncation keeps the bits that remain. -/
theorem msbBits_setWidth {v w n : Nat} (x : BitVec w) (hn : n ≤ v) : msbBits n (x.setWidth v) = msbBits n x :=
  msbBits_eq_iff.mpr fun i hi => by rw [BitVec.getLsbD_setWidth, decide_eq_true (by omega), Bool.true_and]

@[simp] theorem bitStream_nil {w : Nat} : bitStream ([] : List (BitVec w)) = [] := rfl

@[simp] theorem bitStream_cons {w : Nat} (x : BitVec w) (xs : List (BitVec w)) :
    bitStream (x :: xs) = msbBits w x ++ bitStream xs := rfl

@[simp] theorem bitStream_append {w : Nat} (xs ys : List (BitVec w)) :
    bitStream (xs ++ ys) = bitStream xs ++ bitStream ys := List.flatMap_append

@[simp] theorem length_bitStream {w : Nat} (xs : List (BitVec w)) : (bitStream xs).length = w * xs.length := by
  induction xs with
  | nil => rfl
  | cons x xs ih =>
    rw [bitStream_cons, List.length_append, length_msbBits, ih, List.length_cons, Nat.mul_succ, Nat.add_comm]

/-- Bit `w·i + k` of the stream is bit `k` from the top of word `i`. -/
theorem getElem?_bitStream {w : Nat} (xs : List (BitVec w)) (i : Nat) {k : Nat} (hk : k < w) :
    (bitStream xs)[w * i + k]? = xs[i]?.map fun x => x.getLsbD (w - 1 - k) := by
  induction xs generalizing i with
  | nil => rfl
  | cons x xs ih =>
    rw [bitStream_cons]
    cases i with
    | zero =>
      rw [Nat.mul_zero, Nat.zero_add, List.getElem?_append_left (by simpa using hk), getElem?_msbBits x hk]
      rfl
    | succ i =>
      rw [List.getElem?_append_right (by rw [length_msbBits, Nat.mul_succ]; omega), List.getElem?_cons_succ, ← ih]
      congr 1
      rw [length_msbBits, Nat.mul_succ]
      omega

/-- A sequence of bytes is determined by its bits. -/
theorem eq_of_bitStream_eq {xs ys : List Byte} (same : bitStream xs = bitStream ys) : xs = ys := by
  induction xs generalizing ys with
  | nil =>
    have count := congrArg List.length same
    rw [length_bitStream, length_bitStream] at count
    exact (List.eq_nil_of_length_eq_zero (by simpa using count.symm)).symm
  | cons x xs ih =>
    cases ys with
    | nil => exact absurd (congrArg List.length same) (by simp)
    | cons y ys =>
      obtain ⟨first, rest⟩ := List.append_inj same (by simp)
      rw [BitVec.eq_of_getLsbD_eq (msbBits_eq_iff.mp first), ih rest]

/-! ### The accumulator -/

/-- Shifting a group in puts its bits behind the pending ones, as long as both fit the accumulator. -/
theorem msbBits_shiftIn {width n : Nat} (acc : BitVec 12) (x : BitVec width) (fits : n + width ≤ 12) :
    msbBits (n + width) (shiftIn acc width (x.setWidth 12)) = msbBits n acc ++ msbBits width x := by
  rw [msbBits_add]
  congr 1
  · refine msbBits_eq_iff.mpr fun i hi => ?_
    have inside : width + i < 12 := by omega
    simp [shiftIn, BitVec.getLsbD_eq_getElem, inside, show i < 12 by omega]
  · refine msbBits_eq_iff.mpr fun i hi => ?_
    simp [shiftIn, hi, show i < 12 by omega]

/-- Whole symbols taken out, then what is still pending, are the bits that were pending. -/
theorem bitStream_groups5 (acc : BitVec 12) {bits : Nat} (few : bits < 15) :
    bitStream (groups5 acc bits) ++ msbBits (bits % 5) acc = msbBits bits acc := by
  have top : ∀ y : BitVec 12, msbBits 5 (y.setWidth 5) = msbBits 5 y := fun y => msbBits_setWidth y le_rfl
  unfold groups5
  split_ifs with two one
  · obtain ⟨r, rfl⟩ := Nat.exists_eq_add_of_le two
    have first := msbBits_add 5 (5 + r) acc
    rw [msbBits_add 5 r acc] at first
    simp only [bitStream_cons, bitStream_nil, List.append_nil, top, List.append_assoc]
    rw [show (10 + r) % 5 = r by omega, show 10 + r - 5 = 5 + r by omega, show 10 + r - 10 = r by omega, ← first]
    congr 1
    omega
  · obtain ⟨r, rfl⟩ := Nat.exists_eq_add_of_le one
    rw [show (5 + r) % 5 = r by omega, Nat.add_sub_cancel_left, msbBits_add]
    simp [top]
  · rw [Nat.mod_eq_of_lt (by omega)]
    rfl

/-- The same of whole bytes. -/
theorem bitStream_groups8 (acc : BitVec 12) {bits : Nat} (few : bits < 16) :
    bitStream (groups8 acc bits) ++ msbBits (bits % 8) acc = msbBits bits acc := by
  unfold groups8
  split_ifs with one
  · obtain ⟨r, rfl⟩ := Nat.exists_eq_add_of_le one
    rw [show (8 + r) % 8 = r by omega, Nat.add_sub_cancel_left, msbBits_add]
    simp [msbBits_setWidth]
  · rw [Nat.mod_eq_of_lt (by omega)]
    rfl

/-! ### Packing -/

/-- The loop of `Pack8to5` puts out the pending bits, the bits of the bytes, and fewer than five zeros (R137). -/
theorem bitStream_packFrom (acc : BitVec 12) {bits : Nat} (few : bits < 5) (b : List Byte) :
    ∃ p, p < 5 ∧ bitStream (packFrom acc bits b) = msbBits bits acc ++ bitStream b ++ List.replicate p false := by
  induction b generalizing acc bits with
  | nil =>
    rw [packFrom]
    split_ifs with pending
    · refine ⟨5 - bits, by omega, ?_⟩
      have split := msbBits_add bits (5 - bits) (acc <<< (5 - bits))
      rw [Nat.add_sub_cancel' few.le] at split
      have top : msbBits bits (acc <<< (5 - bits) >>> (5 - bits)) = msbBits bits acc :=
        msbBits_eq_iff.mpr fun i hi => by
          simp [BitVec.getLsbD_eq_getElem, show 5 - bits + i < 12 by omega, show i < 12 by omega]
      have zeros : msbBits (5 - bits) (acc <<< (5 - bits)) = List.replicate (5 - bits) false :=
        (msbBits_eq_iff.mpr fun i hi => by simp [hi]).trans (msbBits_zero 12 _)
      rw [bitStream_cons, bitStream_nil, List.append_nil, msbBits_setWidth _ le_rfl, split, top, zeros, bitStream_nil,
        List.append_nil]
    · obtain rfl : bits = 0 := by omega
      exact ⟨0, by omega, rfl⟩
  | cons x rest ih =>
    obtain ⟨p, small, tail⟩ := ih (shiftIn acc 8 (x.setWidth 12)) (Nat.mod_lt (bits + 8) (by omega))
    refine ⟨p, small, ?_⟩
    rw [packFrom, bitStream_append, tail, ← List.append_assoc, ← List.append_assoc, bitStream_groups5 _ (by omega),
      msbBits_shiftIn acc x (by omega), bitStream_cons]
    simp only [List.append_assoc]

/-- So packing zero-pads the bits of the bytes to whole symbols (R137). -/
theorem bitStream_pack8to5 (b : List Byte) :
    ∃ p, p < 5 ∧ bitStream (pack8to5 b) = bitStream b ++ List.replicate p false :=
  bitStream_packFrom 0 (Nat.succ_pos 4) b

/-- The number of symbols of a packed byte string (R137). -/
theorem length_pack8to5 (b : List Byte) : (pack8to5 b).length = (8 * b.length + 4) / 5 := by
  obtain ⟨p, small, bits⟩ := bitStream_pack8to5 b
  have count := congrArg List.length bits
  simp only [length_bitStream, List.length_append, List.length_replicate] at count
  omega

/-- The bits of a packed byte string (R137). -/
theorem getLsbD_pack8to5 (b : List Byte) {i k : Nat} (h : i < (pack8to5 b).length) (hk : k < 5) :
    (pack8to5 b)[i].getLsbD (4 - k) = (b.getD ((5 * i + k) / 8) 0).getLsbD (7 - (5 * i + k) % 8) := by
  obtain ⟨p, small, bits⟩ := bitStream_pack8to5 b
  have count := congrArg List.length bits
  simp only [length_bitStream, List.length_append, List.length_replicate] at count
  have out := getElem?_bitStream (pack8to5 b) i hk
  rw [List.getElem?_eq_getElem h, bits] at out
  have place : 8 * ((5 * i + k) / 8) + (5 * i + k) % 8 = 5 * i + k := Nat.div_add_mod ..
  have into := getElem?_bitStream b ((5 * i + k) / 8) (Nat.mod_lt (5 * i + k) (Nat.succ_pos 7))
  rw [place] at into
  by_cases inside : 5 * i + k < 8 * b.length
  · rw [List.getElem?_append_left (by simpa using inside), into, List.getElem?_eq_getElem (by omega)] at out
    rw [List.getD_eq_getElem _ _ (by omega)]
    exact (Option.some.inj out).symm
  · rw [List.getElem?_append_right (by simp; omega), List.getElem?_replicate_of_lt (by simp; omega)] at out
    rw [List.getD_eq_default _ _ (by omega)]
    simpa using (Option.some.inj out).symm

/-! ### Unpacking -/

/-- The count of leftover bits (R138). -/
theorem bits_unpackFrom (acc : BitVec 12) {bits : Nat} (few : bits < 8) (s : List Symbol) :
    (unpackFrom acc bits s).2.2 = (bits + 5 * s.length) % 8 := by
  induction s generalizing acc bits with
  | nil => exact (Nat.mod_eq_of_lt few).symm
  | cons x rest ih =>
    rw [unpackFrom, ih _ (Nat.mod_lt _ (by omega)), List.length_cons]
    omega

/-- The accumulator that is left over has taken in every symbol. -/
theorem acc_unpackFrom (acc : BitVec 12) (bits : Nat) (s : List Symbol) :
    (unpackFrom acc bits s).2.1 = s.foldl (fun a x => shiftIn a 5 (x.setWidth 12)) acc := by
  induction s generalizing acc bits with
  | nil => rfl
  | cons x rest ih => exact ih _ _

/-- The loop of `Unpack5to8` puts out the pending bits and the bits of the symbols, but for the leftover ones (R138). -/
theorem bitStream_unpackFrom (acc : BitVec 12) {bits : Nat} (few : bits < 8) (s : List Symbol) :
    bitStream (unpackFrom acc bits s).1 ++ msbBits (unpackFrom acc bits s).2.2 (unpackFrom acc bits s).2.1 =
      msbBits bits acc ++ bitStream s := by
  induction s generalizing acc bits with
  | nil => simp [unpackFrom]
  | cons x rest ih =>
    rw [unpackFrom, bitStream_append, List.append_assoc, ih _ (Nat.mod_lt _ (by omega)), ← List.append_assoc,
      bitStream_groups8 _ (by omega), msbBits_shiftIn acc x (by omega), bitStream_cons, List.append_assoc]

/-- So unpacking cuts the bits of the symbols into bytes and fewer than eight leftover bits (R138). -/
theorem bitStream_unpackFrom_zero (s : List Symbol) :
    bitStream (unpackFrom 0 0 s).1 ++ msbBits (5 * s.length % 8) (unpackFrom 0 0 s).2.1 = bitStream s := by
  have bits := bits_unpackFrom 0 (Nat.succ_pos 7) s
  rw [Nat.zero_add] at bits
  exact bits ▸ bitStream_unpackFrom 0 (Nat.succ_pos 7) s

/-- The leftover bits, fewer than five, are the low bits of the last symbol. -/
theorem leftoverSet_unpackFrom (s : List Symbol) {n : Nat} (few : n < 5) :
    leftoverSet (unpackFrom 0 0 s).2.1 n = true ↔ ∃ x ∈ s.getLast?, x.toNat % 2 ^ n ≠ 0 := by
  rw [acc_unpackFrom, leftoverSet, bne_iff_ne]
  rcases List.eq_nil_or_concat s with rfl | ⟨rest, x, rfl⟩
  · simp
  · have low : ∀ acc : BitVec 12, (shiftIn acc 5 (x.setWidth 12)).toNat % 2 ^ n = x.toNat % 2 ^ n := fun acc =>
      toNat_mod_two_pow_congr fun i hi => by simp [shiftIn, show i < 5 by omega, show i < 12 by omega]
    simp [low]

/-- `Unpack5to8` by its two conditions (R138). -/
theorem unpack5to8_eq (s : List Symbol) :
    unpack5to8 s =
      if 5 ≤ 5 * s.length % 8 ∨ leftoverSet (unpackFrom 0 0 s).2.1 (5 * s.length % 8) = true then
        .error ⟨.invalidPadding, s.length⟩
      else .ok (unpackFrom 0 0 s).1 := by
  have bits := bits_unpackFrom 0 (Nat.succ_pos 7) s
  rw [Nat.zero_add] at bits
  rw [unpack5to8, ← bits]
  by_cases many : 5 ≤ (unpackFrom 0 0 s).2.2
  · rw [if_pos (.inl many)]
    exact if_pos many
  · refine (if_neg many).trans ?_
    simp only [many, false_or]

/-- The two conditions in words (R138). -/
theorem badPadding_iff (s : List Symbol) :
    (5 ≤ 5 * s.length % 8 ∨ leftoverSet (unpackFrom 0 0 s).2.1 (5 * s.length % 8) = true) ↔
      (s.length % 8 = 1 ∨ s.length % 8 = 3 ∨ s.length % 8 = 6 ∨
        ∃ x ∈ s.getLast?, x.toNat % 2 ^ (5 * s.length % 8) ≠ 0) := by
  have lengths : 5 ≤ 5 * s.length % 8 ↔ s.length % 8 = 1 ∨ s.length % 8 = 3 ∨ s.length % 8 = 6 := by
    have remainders : ∀ r < 8, 5 ≤ 5 * r % 8 ↔ r = 1 ∨ r = 3 ∨ r = 6 := by decide
    have mul_mod : 5 * s.length % 8 = 5 * (s.length % 8) % 8 := by omega
    exact mul_mod ▸ remainders _ (Nat.mod_lt _ (by omega))
  by_cases few : 5 * s.length % 8 < 5
  · rw [leftoverSet_unpackFrom s few, lengths, or_assoc, or_assoc]
  · have long := lengths.mp (Nat.not_lt.mp few)
    exact iff_of_true (.inl (lengths.mpr long)) (by simpa only [or_assoc] using Or.inl long)

/-- The number of bytes that symbols unpack to (R138). -/
theorem length_of_unpack5to8 {s : List Symbol} {out : List Byte} (h : unpack5to8 s = .ok out) :
    out.length = 5 * s.length / 8 := by
  have count := congrArg List.length (bitStream_unpackFrom_zero s)
  rw [List.length_append, length_bitStream, length_bitStream, length_msbBits] at count
  rw [unpack5to8_eq] at h
  split_ifs at h
  obtain rfl := Except.ok.inj h
  omega

/-- Settles O51. -/
theorem unpackFailsExactlyOnBadPadding : Obligations.UnpackFailsExactlyOnBadPadding := by
  intro s
  rw [← badPadding_iff, unpack5to8_eq]
  refine ⟨fun bad => if_pos bad, fun good => ⟨_, if_neg good, ?_⟩⟩
  exact length_of_unpack5to8 ((unpack5to8_eq s).trans (if_neg good))

/-- Unpacking inverts packing: the leftover bits are the zeros of the padding (R137, R138). -/
theorem unpack5to8_pack8to5 (b : List Byte) : unpack5to8 (pack8to5 b) = .ok b := by
  obtain ⟨p, small, packed⟩ := bitStream_pack8to5 b
  have kept := bitStream_unpackFrom_zero (pack8to5 b)
  have count := congrArg List.length packed
  simp only [length_bitStream, List.length_append, List.length_replicate] at count
  have padding : 5 * (pack8to5 b).length % 8 = p := by omega
  rw [packed, padding] at kept
  obtain ⟨out, rest⟩ := List.append_inj' kept (by simp)
  have clear : leftoverSet (unpackFrom 0 0 (pack8to5 b)).2.1 p = false := by
    rw [leftoverSet, toNat_mod_two_pow_congr (msbBits_eq_iff.mp (rest.trans (msbBits_zero 12 p).symm))]
    simp
  rw [unpack5to8_eq, padding, clear, if_neg (by simp; omega), eq_of_bitStream_eq out]

/-- Settles O50. -/
theorem packingIsMsbFirstAndInvertible : Obligations.PackingIsMsbFirstAndInvertible :=
  fun b => ⟨length_pack8to5 b, fun _ _ => getLsbD_pack8to5 b, unpack5to8_pack8to5 b⟩

/-- Settles O54. -/
theorem dataTextRoundTrips : Obligations.DataTextRoundTrips := by
  intro b
  refine ⟨pack8to5 b, ?_⟩
  rw [decodeData, encodeData, bisTextRoundTrips (pack8to5 b)]
  simp only [unpack5to8_pack8to5]

end Sys2Proof.Machine
end

section
/-! The commands of the text codec (42_base32.md R141 to R144): the checks in their order, each ending the command with
its error, then the work. All four end alike, with an output checked against OUT_BYTES and three result words. -/

namespace Sys2Proof.Machine

/-! ### Checks and output -/

/-- A check that holds hands its value to what follows. -/
theorem settle_passes {α : Type} {s : State} {check : Except CmdError α} {a : α} (work : α → Except CmdError State)
    (holds : check = .ok a) : settle s (check >>= work) = settle s (work a) := by
  rw [holds]
  rfl

/-- The common end of a command with output: the capacity check, the output, the result words. -/
def outputEnd (s : State) (x : List Byte) (r0 r1 r2 : Word) : Except CmdError State :=
  checkOut s x >>= fun _ => .ok ((s.outWrite x).results r0 r1 r2)

/-- An output too long for OUTBUF ends the command with OUT_OVERFLOW (R96). -/
theorem settle_outputEnd_overflow {s : State} {x : List Byte} (r0 r1 r2 : Word) (long : s.params.outBytes < x.length) :
    ∃ t, settle s (outputEnd s x r0 r1 r2) = .next t ∧ Fails s t .outOverflow 1 0xFF 0 :=
  settle_fails _ (checkOut_eq_error long)

/-- Any other output is written, with the result words, and nothing else changes. -/
theorem settle_outputEnd_fits {s : State} {x : List Byte} (r0 r1 r2 : Word) (fits : x.length ≤ s.params.outBytes) :
    ∃ t, settle s (outputEnd s x r0 r1 r2) = .next t ∧ Succeeds s t ∧ t.acc = s.acc ∧ Outputs t x ∧
      t.res0 = r0 ∧ t.res1 = r1 ∧ t.res2 = r2 :=
  ⟨_, settle_passes _ (checkOut_eq_ok (u := ()).mpr fits), succeeds_outWrite s x r0 r1 r2, rfl,
    outputs_outWrite s x r0 r1 r2, rfl, rfl, rfl⟩

/-- RES1 as it was is as issue left it (R91). -/
theorem keepsRes1_of_eq {s t : State} (same : t.res1 = s.res1) : KeepsRes1 s t :=
  ⟨same, fun issued => same.trans issued.res1⟩

/-- RES2 as it was is as issue left it (R91). -/
theorem keepsRes2_of_eq {s t : State} (same : t.res2 = s.res2) : KeepsRes2 s t :=
  ⟨same, fun issued => same.trans issued.res2⟩

/-- The variant flag (R142). -/
theorem variantWord_eq (v : Variant) : variantWord v = if isBis v then 1 else 0 := by cases v <;> rfl

/-! ### B32.ENC -/

/-- B32.ENC of a variant runs B32_ENCODE with it (R141). -/
theorem exec_b32EncOf (v : Variant) (s : State) : exec (b32EncOf v) s = b32Encode v s := by cases v <;> rfl

/-- The word with opcode 7 and the VAR of a variant is B32.ENC of it. -/
theorem encodedByVar_b32EncOf (v : Variant) : EncodedByVar 0x07 (isBis v) (b32EncOf v) :=
  fun _ opcode var low high => decode_of_some low high opcode (by rw [var]; cases v <;> rfl)

/-- The separator stands only behind a human-readable part (R133). -/
theorem bech32Text_eq (h : List Byte) (e : List Symbol) :
    bech32Text h e = (if h.length = 0 then [] else h ++ [0x31]) ++ e.map sym := by
  rcases Nat.eq_zero_or_pos h.length with absent | present
  · rw [bech32Text, if_neg (by omega), if_pos absent, List.nil_append]
  · rw [bech32Text, if_pos present, if_neg (by omega), separator]

/-- The length of an encoded text (R133). -/
theorem length_bech32Encode (h : List Byte) (d : List Symbol) (v : Variant) :
    (bech32Encode h d v).1.length = (if h.length = 0 then 0 else h.length + 1) + d.length + 6 := by
  rw [bech32Encode, bech32Text_eq]
  split_ifs
  · simp
  · simp
    omega

/-- Settles O37. -/
theorem b32EncodeWritesText : Obligations.B32EncodeWritesText := by
  refine fun v => ⟨encodedByVar_b32EncOf v, fun s => ?_⟩
  rw [exec_b32EncOf]
  refine ⟨fun long => settle_fails _ (checkBoth_eq_error long),
    fun i fits bad => settle_badSymbol _ (checkBoth_eq_ok.mpr fits) bad,
    fun m c text fits symbols created written => ?_⟩
  have noPrefix : s.alen.toNat = 0 ↔ s.alen = 0 := (BitVec.toNat_eq (y := 0#16)).symm
  have encoded : bech32Encode s.hrpBytes (asSymbols s.tailBytes) v = (text, m) := by
    rw [bech32Encode, created, bech32Text_eq, written]
    simp only [State.length_hrpBytes, noPrefix]
  have run : b32Encode v s = settle s (outputEnd s text (accWord m) s.res1 s.res2) := by
    rw [b32Encode, settle_symbols _ (checkBoth_eq_ok.mpr fits) symbols, encoded]
    rfl
  rw [run]
  refine ⟨?_, settle_outputEnd_overflow _ _ _, fun room => ?_⟩
  · have length := length_bech32Encode s.hrpBytes (asSymbols s.tailBytes) v
    rw [encoded] at length
    simpa [noPrefix, asSymbols] using length
  · obtain ⟨t, ends, succeeds, acc, out, res0, res1, res2⟩ := settle_outputEnd_fits (accWord m) s.res1 s.res2 room
    exact ⟨t, ends, succeeds, acc, out, res0, keepsRes1_of_eq res1, keepsRes2_of_eq res2⟩

/-! ### B32.DEC -/

/-- A command over a text whose base-32 function fails ends with its error, FRAG = 0xFF and FIELD = 1 (R142, R144). -/
theorem settle_codecFails {α : Type} {s : State} {r : Except CodecFail α} {e : CodecFail}
    (work : α → Except CmdError State) (fits : s.blen.toNat ≤ s.params.inBytes) (failed : r = .error e) :
    ∃ t, settle s (checkBlen s >>= fun _ => liftCodec r noFrag 1 >>= work) = .next t ∧
      Fails s t e.code e.detail 0xFF 1 := by
  rw [settle_passes _ (checkBlen_eq_ok (u := ()).mpr fits)]
  exact settle_fails work (liftCodec_eq_error.mpr ⟨e, failed, rfl⟩)

/-- Where it succeeds, the command does its work on the value (R142, R144). -/
theorem settle_codecPasses {α : Type} {s : State} {r : Except CodecFail α} {a : α}
    (work : α → Except CmdError State) (fits : s.blen.toNat ≤ s.params.inBytes) (decoded : r = .ok a) :
    settle s (checkBlen s >>= fun _ => liftCodec r noFrag 1 >>= work) = settle s (work a) :=
  (settle_passes _ (checkBlen_eq_ok (u := ()).mpr fits)).trans (settle_passes work (liftCodec_eq_ok.mpr decoded))

/-- Settles O38. -/
theorem b32DecodeReportsText : Obligations.B32DecodeReportsText := by
  refine ⟨fun _ opcode low high => decode_of_some low high opcode rfl, fun s => ⟨fun long => ?_,
    fun e fits failed => ?_, fun h d v fits decoded => ?_⟩⟩
  · exact settle_fails _ (checkBlen_eq_error long)
  · exact settle_codecFails _ fits failed
  · have run : exec .b32Dec s = settle s (outputEnd s (h ++ symbolBytes d) (countWord h.length) (countWord d.length)
      (variantWord v)) := settle_codecPasses _ fits decoded
    have length : (h ++ symbolBytes d).length = h.length + d.length := by simp [symbolBytes]
    rw [run, ← length, ← variantWord_eq]
    exact ⟨settle_outputEnd_overflow _ _ _, settle_outputEnd_fits _ _ _⟩

/-! ### B32.ENCD and B32.DECD -/

/-- Settles O39. -/
theorem b32EncodeDataWritesText : Obligations.B32EncodeDataWritesText := by
  refine ⟨fun _ opcode low high => decode_of_some low high opcode rfl, fun s => ⟨fun long => ?_,
    fun text m fits encoded => ?_⟩⟩
  · exact settle_fails _ (checkBlen_eq_error long)
  · have count : (pack8to5 s.textBytes).length = (8 * s.blen.toNat + 4) / 5 := by
      rw [length_pack8to5, State.length_textBytes]
    have run : exec .b32Encd s = settle s (outputEnd s text (accWord m) (countWord ((8 * s.blen.toNat + 4) / 5))
        s.res2) := by
      refine (settle_passes _ (checkBlen_eq_ok (u := ()).mpr fits)).trans ?_
      rw [encodeData, encoded, count]
      rfl
    have length := length_bech32Encode [] (pack8to5 s.textBytes) .bis
    rw [encoded, count] at length
    rw [run]
    refine ⟨by simpa using length, settle_outputEnd_overflow _ _ _, fun room => ?_⟩
    obtain ⟨t, ends, succeeds, acc, out, res0, res1, res2⟩ := settle_outputEnd_fits (accWord m)
      (countWord ((8 * s.blen.toNat + 4) / 5)) s.res2 room
    exact ⟨t, ends, succeeds, acc, out, res0, res1, keepsRes2_of_eq res2⟩

/-- What DecodeData answers are the unpacked data symbols (R140). -/
theorem unpack5to8_of_decodeData {t bytes : List Byte} {r : Decoded} (h : decodeData t = .ok (bytes, r)) :
    unpack5to8 r.data = .ok bytes := by
  unfold decodeData at h
  split at h
  · cases h
  · split at h
    · cases h
    · next unpacked =>
      cases h
      exact unpacked

/-- Settles O40. -/
theorem b32DecodeDataReportsBytes : Obligations.B32DecodeDataReportsBytes := by
  refine ⟨fun _ opcode low high => decode_of_some low high opcode rfl, fun s => ⟨fun long => ?_,
    fun e fits failed => ?_, fun bytes h d v fits decoded => ?_⟩⟩
  · exact settle_fails _ (checkBlen_eq_error long)
  · exact settle_codecFails _ fits failed
  · have run : exec .b32Decd s = settle s (outputEnd s bytes (countWord h.length) (countWord d.length)
      (variantWord v)) := settle_codecPasses _ fits decoded
    rw [run, ← variantWord_eq]
    exact ⟨length_of_unpack5to8 (unpack5to8_of_decodeData decoded), settle_outputEnd_overflow _ _ _,
      settle_outputEnd_fits _ _ _⟩

end Sys2Proof.Machine
end

section
/-! Fragments as text (43_ur.md R161 to R166). A sequence without the separator is one part, and a separator behind it cuts
it off; so the number of parts is one more than that of the separators. A sequencing token is cut after its leading digits,
which is the only place where the grammar can cut it. -/

namespace Sys2Proof.Machine

/-! ### Parts -/

/-- A sequence without the separator is one part (R161). -/
theorem splitOn_of_notMem {b : Byte} {p : List Byte} (absent : b ∉ p) : splitOn b p = [p] := by
  induction p with
  | nil => rfl
  | cons x xs ih =>
    obtain ⟨differs, absent⟩ := not_or.mp (mt List.mem_cons.mpr absent)
    rw [splitOn, if_neg (Ne.symm differs), ih absent]

/-- The first separator ends the first part (R161). -/
theorem splitOn_append_cons {b : Byte} {p : List Byte} (absent : b ∉ p) (q : List Byte) :
    splitOn b (p ++ b :: q) = p :: splitOn b q := by
  induction p with
  | nil => exact if_pos rfl
  | cons x xs ih =>
    obtain ⟨differs, absent⟩ := not_or.mp (mt List.mem_cons.mpr absent)
    rw [List.cons_append, splitOn, if_neg (Ne.symm differs), ih absent]

/-- The part count is one more than the number of separators (R161). -/
theorem length_splitOn (b : Byte) (s : List Byte) : (splitOn b s).length = s.count b + 1 := by
  induction s with
  | nil => rfl
  | cons x xs ih =>
    rw [splitOn]
    split
    next same => rw [List.length_cons, ih, same, List.count_cons_self]
    next differs =>
      rw [List.count_cons_of_ne differs, ← ih]
      split
      next noPart => rw [noPart, List.length_nil] at ih; omega
      next cut => rw [cut, List.length_cons, List.length_cons]

/-- Two parts with a separator between them. -/
theorem parts_two {p0 p1 : List Byte} (no0 : partSeparator ∉ p0) (no1 : partSeparator ∉ p1) :
    parts (p0 ++ partSeparator :: p1) = [p0, p1] := by
  rw [parts, splitOn_append_cons no0, splitOn_of_notMem no1]

/-- Four parts with separators between them. -/
theorem parts_four {p0 p1 p2 p3 : List Byte} (no0 : partSeparator ∉ p0) (no1 : partSeparator ∉ p1)
    (no2 : partSeparator ∉ p2) (no3 : partSeparator ∉ p3) :
    parts (p0 ++ partSeparator :: (p1 ++ partSeparator :: (p2 ++ partSeparator :: p3))) = [p0, p1, p2, p3] := by
  rw [parts, splitOn_append_cons no0, splitOn_append_cons no1, splitOn_append_cons no2, splitOn_of_notMem no3]

/-! ### The sequencing token -/

/-- The digits `'0' .. '9'` by number (R164). -/
theorem isDigit_iff (b : Byte) : isDigit b = true ↔ 48 ≤ b.toNat ∧ b.toNat ≤ 57 := by
  simp [isDigit]

/-- The letter `o` of either case (R164). -/
theorem isO_iff (b : Byte) : isO b = true ↔ b = 0x6F ∨ b = 0x4F := by
  simp [isO]

/-- The letter `f` of either case (R164). -/
theorem isF_iff (b : Byte) : isF b = true ↔ b = 0x66 ∨ b = 0x46 := by
  simp [isF]

/-- No letter `o` is a digit, so the digits in front of it end there. -/
theorem not_isDigit_of_isO {o : Byte} (h : o = 0x6F ∨ o = 0x4F) : ¬ isDigit o = true := by
  rcases h with rfl | rfl <;> decide

/-- Digits are what the digit test accepts. -/
theorem digits_iff {ds : List Byte} : Digits ds ↔ ds ≠ [] ∧ ∀ b ∈ ds, isDigit b = true := by
  simp only [Digits, isDigit_iff]

/-- A token of the grammar is read as its two digit sequences (R164). -/
theorem parseSeq_of_seqToken {tok a b : List Byte} (token : SeqToken tok a b) : parseSeq tok = seqValues a b := by
  obtain ⟨o, f, ho, hf, da, db, rfl⟩ := token
  obtain ⟨a_ne, a_digits⟩ := digits_iff.mp da
  obtain ⟨b_ne, b_digits⟩ := digits_iff.mp db
  have stop : ¬ isDigit o = true := not_isDigit_of_isO ho
  have cut : a ++ [o, f] ++ b = a ++ o :: f :: b := by simp
  have rest : (a ++ o :: f :: b).dropWhile isDigit = o :: f :: b := by
    rw [List.dropWhile_append_of_pos a_digits, List.dropWhile_cons_of_neg stop]
  have head : (a ++ o :: f :: b).takeWhile isDigit = a := by
    rw [List.takeWhile_append_of_pos a_digits, List.takeWhile_cons_of_neg stop, List.append_nil]
  rw [cut, parseSeq, rest, head]
  exact if_pos (by simp [(isO_iff o).mpr ho, (isF_iff f).mpr hf, a_ne, b_ne, List.all_eq_true.mpr b_digits])

/-- A token outside the grammar fails with reason 1: where the model finds the letters between digits, it has found the two
digit sequences (R164). -/
theorem parseSeq_of_no_seqToken {tok : List Byte} (ungrammatical : ∀ a b, ¬ SeqToken tok a b) :
    parseSeq tok = .error ⟨.invalidSequencing, 1⟩ := by
  unfold parseSeq
  split
  next o f b rest =>
    refine if_neg fun grammar => ungrammatical (tok.takeWhile isDigit) b ?_
    simp only [Bool.and_eq_true, Bool.not_eq_true', List.isEmpty_eq_false_iff, List.all_eq_true] at grammar
    obtain ⟨⟨⟨⟨ho, hf⟩, a_ne⟩, b_ne⟩, b_digits⟩ := grammar
    refine ⟨o, f, (isO_iff o).mp ho, (isF_iff f).mp hf, digits_iff.mpr ⟨a_ne, fun _ => List.mem_takeWhile_imp⟩,
      digits_iff.mpr ⟨b_ne, b_digits⟩, ?_⟩
    rw [List.append_assoc]
    exact (List.takeWhile_append_dropWhile.symm).trans (congrArg _ rest)
  next => rfl

/-- Settles O55. -/
theorem sequencingTokenGrammar : Obligations.SequencingTokenGrammar := by
  intro tok
  refine ⟨fun a b token fits_a fits_b => ?_, fun a b token large => ?_, parseSeq_of_no_seqToken⟩
  · rw [parseSeq_of_seqToken token]
    exact if_neg (by omega)
  · rw [parseSeq_of_seqToken token]
    exact if_pos large

/-! ### The probe -/

/-- A part count that no fragment has fails with that count (R166). -/
theorem probe_otherShape {f : List Byte} (two : (parts f).length ≠ 2) (three : (parts f).length ≠ 3)
    (four : (parts f).length ≠ 4) : probe f = .error ⟨.malformedShape, shapeDetail (parts f).length, noFrag, 0⟩ := by
  unfold probe
  split
  next shape => exact absurd (congrArg List.length shape) two
  next shape => exact absurd (congrArg List.length shape) three
  next shape => exact absurd (congrArg List.length shape) four
  next => rfl

/-- Four parts: the token decides (R166). -/
theorem probe_fourParts {f p0 tok p2 p3 : List Byte} (shape : parts f = [p0, tok, p2, p3]) :
    probe f = probeToken tok := by
  rw [probe, shape]

/-- Settles O56. -/
theorem probeFollowsPartCount : Obligations.ProbeFollowsPartCount := by
  intro f
  have count : (parts f).length = f.count 0x2F + 1 := length_splitOn partSeparator f
  refine ⟨fun one => ?two, fun two => ?three, fun other => ?other, fun p0 tok p2 p3 absent text => ?four⟩
  case two =>
    obtain ⟨p0, p1, shape⟩ := List.length_eq_two.mp (count.trans (by omega))
    rw [probe, shape]
  case three =>
    obtain ⟨p0, p1, p2, shape⟩ := List.length_eq_three.mp (count.trans (by omega))
    rw [probe, shape]
  case other =>
    rw [probe_otherShape (by omega) (by omega) (by omega), count]
    rfl
  case four =>
    simp only [List.forall_mem_cons] at absent
    obtain ⟨no0, no1, no2, no3, -⟩ := absent
    have shape : parts f = [p0, tok, p2, p3] := by
      rw [text]
      simpa [partSeparator] using parts_four no0 no1 no2 no3
    rw [probe_fourParts shape, probeToken]
    refine ⟨fun e failed => by rw [failed]; rfl, fun index total read => ?_⟩
    rw [read]
    exact ⟨fun inRange => if_neg (by omega), fun outside => if_pos (by omega)⟩

end Sys2Proof.Machine
end

section
/-! Reassembly (43_ur.md R167 to R171, R174). What the pass over the fragments asks of one fragment depends on its position
in no way but in the error it reports (`placeFragment_eq_ok`). So two fragments that go through in one order go through in
the other, and what has gone through are fragments of one set: `SetMember` with one digest field, and indices that are
pairwise different. -/

namespace Sys2Proof.Machine

/-! ### One fragment -/

/-- `f` is a fragment of a set of `n` with the expected type: index `i`, digest field `dg`, chunk `chunk` (R160, R170). -/
def SetMember (type : List Byte) (n : Nat) (f : List Byte) (i : Nat) (dg chunk : List Byte) : Prop :=
  ∃ p0 tok, parts f = [p0, tok, dg, chunk] ∧ headerMatches p0 type = true ∧ parseSeq tok = .ok (i, n) ∧ 1 ≤ i ∧ i ≤ n

/-- The slot of its index is one of the `n` slots. -/
theorem SetMember.slot_lt {type : List Byte} {n : Nat} {f : List Byte} {i : Nat} {dg chunk : List Byte}
    (member : SetMember type n f i dg chunk) : i - 1 < n := by
  obtain ⟨p0, tok, -, -, -, low, high⟩ := member
  omega

/-- The slot of an index is still free, and the digest field is the one seen so far, if any (R170). -/
def Assembly.Accepts (a : Assembly) (i : Nat) (dg : List Byte) : Prop :=
  (∀ d ∈ a.digest, d = dg) ∧ a.slots.getD (i - 1) none = none

/-- The slot array and the digest after a fragment (R170). -/
def Assembly.place (a : Assembly) (i : Nat) (dg chunk : List Byte) : Assembly :=
  ⟨a.slots.set (i - 1) (some chunk), some dg⟩

/-- The checks on the numbers and on what has been placed before (R170). -/
theorem placeChunk_eq_ok {n k i t : Nat} {dg chunk : List Byte} {a a' : Assembly} :
    placeChunk n k i t dg chunk a = .ok a' ↔
      t = n ∧ 1 ≤ i ∧ i ≤ n ∧ a.Accepts i dg ∧ a' = a.place i dg chunk := by
  unfold placeChunk
  split_ifs with total range digest duplicate
  · simp [total]
  · refine iff_of_false nofun fun ⟨_, _, _, _⟩ => by omega
  · refine iff_of_false nofun fun ⟨_, _, _, ⟨same, _⟩, _⟩ => digest.2 ?_
    obtain ⟨d, seen⟩ := Option.ne_none_iff_exists'.mp digest.1
    rw [seen, same d seen]
  · refine iff_of_false nofun fun ⟨_, _, _, ⟨_, free⟩, _⟩ => ?_
    rw [free] at duplicate
    cases duplicate
  · have accepts : a.Accepts i dg := by
      refine ⟨fun d seen => ?_, by simpa using duplicate⟩
      have := not_and_not_right.mp digest (by simp [Option.mem_def.mp seen])
      exact Option.some.inj (seen.symm.trans this)
    rw [Except.ok.injEq, eq_comm]
    exact ⟨fun h => ⟨not_not.mp total, by omega, by omega, accepts, h⟩, fun ⟨_, _, _, _, h⟩ => h⟩

/-- What the pass asks of one fragment, and what it does: nothing depends on the position `k` (R170). -/
theorem placeFragment_eq_ok {type : List Byte} {n k : Nat} {f : List Byte} {a a' : Assembly} :
    placeFragment type n k f a = .ok a' ↔
      ∃ i dg chunk, SetMember type n f i dg chunk ∧ a.Accepts i dg ∧ a' = a.place i dg chunk := by
  constructor
  · intro h
    unfold placeFragment at h
    split at h
    next p0 tok dg chunk shape =>
      split at h
      next header =>
        split at h
        next => cases h
        next i t token =>
          obtain ⟨rfl, low, high, accepts, placed⟩ := placeChunk_eq_ok.mp h
          exact ⟨i, dg, chunk, ⟨p0, tok, shape, header, token, low, high⟩, accepts, placed⟩
      next => cases h
    next => cases h
  · rintro ⟨i, dg, chunk, ⟨p0, tok, shape, header, token, low, high⟩, accepts, placed⟩
    simp only [placeFragment, shape, header, if_true, token]
    exact placeChunk_eq_ok.mpr ⟨rfl, low, high, accepts, placed⟩

/-! ### The pass over the fragments -/

/-- The pass goes through when its first fragment does and then the rest (R170). -/
theorem placeAll_cons_eq_ok {type : List Byte} {n k : Nat} {f : List Byte} {fs : List (List Byte)} {a a' : Assembly} :
    placeAll type n k (f :: fs) a = .ok a' ↔
      ∃ i dg chunk, SetMember type n f i dg chunk ∧ a.Accepts i dg ∧
        placeAll type n (k + 1) fs (a.place i dg chunk) = .ok a' := by
  rw [placeAll]
  constructor
  · intro h
    split at h
    next => cases h
    next b first =>
      obtain ⟨i, dg, chunk, member, accepts, rfl⟩ := placeFragment_eq_ok.mp first
      exact ⟨i, dg, chunk, member, accepts, h⟩
  · rintro ⟨i, dg, chunk, member, accepts, rest⟩
    rw [placeFragment_eq_ok.mpr ⟨i, dg, chunk, member, accepts, rfl⟩]
    exact rest

/-- The slot array keeps its size. -/
@[simp] theorem length_slots_place (a : Assembly) (i : Nat) (dg chunk : List Byte) :
    (a.place i dg chunk).slots.length = a.slots.length := List.length_set

/-- Placing takes the slot of its own index only: a slot free afterwards was free before. -/
theorem free_of_free_place {a : Assembly} {i j : Nat} {dg chunk : List Byte} (inside : i - 1 < a.slots.length)
    (free : (a.place i dg chunk).slots.getD (j - 1) none = none) : i - 1 ≠ j - 1 ∧ a.slots.getD (j - 1) none = none := by
  simp only [Assembly.place, List.getD_eq_getElem?_getD, List.getElem?_set] at free ⊢
  split at free
  next same => simp at free
  next differ => exact ⟨differ, free⟩

/-- A slot free before stays free unless it is the one taken. -/
theorem free_place {a : Assembly} {i j : Nat} {dg chunk : List Byte} (differ : i - 1 ≠ j - 1)
    (free : a.slots.getD (j - 1) none = none) : (a.place i dg chunk).slots.getD (j - 1) none = none := by
  simpa only [Assembly.place, List.getD_eq_getElem?_getD, List.getElem?_set_ne differ] using free

/-- Two fragments that go through one after the other go through in the other order too, to the same end: they have one
digest field and different slots. -/
theorem place_place_comm {a : Assembly} {i j : Nat} {dg dg' c c' : List Byte} (inside : i - 1 < a.slots.length)
    (first : a.Accepts i dg) (second : (a.place i dg c).Accepts j dg') :
    a.Accepts j dg' ∧ (a.place j dg' c').Accepts i dg ∧
      (a.place i dg c).place j dg' c' = (a.place j dg' c').place i dg c := by
  obtain ⟨digest, free⟩ := first
  obtain ⟨digest', free'⟩ := second
  obtain rfl : dg = dg' := digest' dg rfl
  obtain ⟨differ, free_j⟩ := free_of_free_place inside free'
  refine ⟨⟨digest, free_j⟩, ⟨fun d seen => (Option.some.inj seen).symm, free_place differ.symm free⟩, ?_⟩
  exact congrArg (Assembly.mk · _) (List.set_comm _ _ differ)

/-- A pass that goes through goes through in any other order, to the same end (R174 (b)). -/
theorem placeAll_perm {type : List Byte} {n k : Nat} {fs gs : List (List Byte)} {a a' : Assembly} (perm : fs.Perm gs)
    (size : a.slots.length = n) (h : placeAll type n k fs a = .ok a') : placeAll type n k gs a = .ok a' := by
  induction perm generalizing k a a' with
  | nil => exact h
  | cons f _ ih =>
    obtain ⟨i, dg, chunk, member, accepts, rest⟩ := placeAll_cons_eq_ok.mp h
    exact placeAll_cons_eq_ok.mpr ⟨i, dg, chunk, member, accepts, ih (by simpa using size) rest⟩
  | swap g f fs =>
    obtain ⟨i, dg, chunk, member, accepts, after⟩ := placeAll_cons_eq_ok.mp h
    obtain ⟨j, dg', chunk', member', accepts', rest⟩ := placeAll_cons_eq_ok.mp after
    obtain ⟨acceptsFirst, acceptsSecond, same⟩ :=
      place_place_comm (c' := chunk') (size ▸ member.slot_lt) accepts accepts'
    exact placeAll_cons_eq_ok.mpr ⟨j, dg', chunk', member', acceptsFirst,
      placeAll_cons_eq_ok.mpr ⟨i, dg, chunk, member, acceptsSecond, same ▸ rest⟩⟩
  | trans _ _ ih₁ ih₂ => exact ih₂ size (ih₁ size h)

/-- A digest field once seen is the one of the end (R170). -/
theorem digest_of_placeAll {type dg : List Byte} {n k : Nat} {fs : List (List Byte)} {a a' : Assembly}
    (h : placeAll type n k fs a = .ok a') (seen : a.digest = some dg) : a'.digest = some dg := by
  induction fs generalizing k a with
  | nil => exact Except.ok.inj h ▸ seen
  | cons f fs ih =>
    obtain ⟨i, dg', chunk, -, ⟨digest, -⟩, rest⟩ := placeAll_cons_eq_ok.mp h
    exact ih rest (congrArg some (digest dg seen).symm)

/-- Every fragment that has gone through is one of the set, with the digest field of the end (R170). -/
theorem member_of_placeAll {type : List Byte} {n k : Nat} {fs : List (List Byte)} {a a' : Assembly}
    (h : placeAll type n k fs a = .ok a') :
    ∀ f ∈ fs, ∃ i dg chunk, SetMember type n f i dg chunk ∧ a'.digest = some dg := by
  induction fs generalizing k a with
  | nil => simp
  | cons f fs ih =>
    obtain ⟨i, dg, chunk, member, -, rest⟩ := placeAll_cons_eq_ok.mp h
    exact List.forall_mem_cons.mpr ⟨⟨i, dg, chunk, member, digest_of_placeAll rest rfl⟩, ih rest⟩

/-- Their indices are pairwise different, and the slots of these indices were free (R170, R174 (a)). -/
theorem indices_of_placeAll {type : List Byte} {n k : Nat} {fs : List (List Byte)} {a a' : Assembly}
    (size : a.slots.length = n) (h : placeAll type n k fs a = .ok a') :
    ∃ idx : List Nat, idx.Nodup ∧ (∀ i ∈ idx, a.slots.getD (i - 1) none = none) ∧
      List.Forall₂ (fun i f => ∃ dg chunk, SetMember type n f i dg chunk) idx fs := by
  induction fs generalizing k a with
  | nil => exact ⟨[], List.nodup_nil, by simp, .nil⟩
  | cons f fs ih =>
    obtain ⟨i, dg, chunk, member, ⟨-, free⟩, rest⟩ := placeAll_cons_eq_ok.mp h
    obtain ⟨idx, nodup, freeLater, members⟩ := ih (by simpa using size) rest
    have others : ∀ j ∈ idx, i - 1 ≠ j - 1 ∧ a.slots.getD (j - 1) none = none := fun j hj =>
      free_of_free_place (size ▸ member.slot_lt) (freeLater j hj)
    refine ⟨i :: idx, List.nodup_cons.mpr ⟨fun again => (others i again).1 rfl, nodup⟩, ?_,
      .cons ⟨dg, chunk, member⟩ members⟩
    exact List.forall_mem_cons.mpr ⟨free, fun j hj => (others j hj).2⟩

/-! ### The decoder -/

/-- A set of two or more decodes when its fragments go through and the final pass succeeds (R168, R170, R171). -/
theorem urDecode_set_eq_ok {sha : List Byte → List Byte} {scratch : Nat} {type : List Byte} {fs : List (List Byte)}
    {r : UrDecoded} (many : 2 ≤ fs.length) : urDecode sha scratch type fs = .ok r ↔
      ∃ a, placeAll type fs.length 0 fs ⟨List.replicate fs.length none, none⟩ = .ok a ∧
        urFinish sha scratch fs.length a = .ok r := by
  have multi : urDecode sha scratch type fs = urMulti sha scratch type fs := by
    match fs, many with
    | _ :: _ :: _, _ => rfl
  rw [multi, urMulti]
  cases placeAll type fs.length 0 fs ⟨List.replicate fs.length none, none⟩ <;> simp

/-- The digest check answers the payload's bytes when the digest field decodes to their hash of 32 bytes (R167). -/
theorem digestCheck_eq_ok {sha : List Byte → List Byte} {dg pl b : List Byte} {frag : Nat} :
    digestCheck sha dg pl frag = .ok b ↔
      (∃ x, decodeData dg = .ok (sha b, x)) ∧ (sha b).length = 32 ∧ ∃ y, decodeData pl = .ok (b, y) := by
  unfold digestCheck
  constructor
  · intro h
    split at h
    next => cases h
    next dd x digest =>
      split at h
      next => cases h
      next pb y payload =>
        split_ifs at h with differs
        obtain rfl := Except.ok.inj h
        obtain ⟨length, rfl⟩ : dd.length = 32 ∧ dd = sha pb := by simpa using differs
        exact ⟨⟨x, digest⟩, length, y, payload⟩
  · rintro ⟨⟨x, digest⟩, length, y, payload⟩
    simp [digest, payload, length]

/-- The final pass succeeds when the assembled text fits the scratch and passes the digest check (R171). -/
theorem urFinish_eq_ok {sha : List Byte → List Byte} {scratch n : Nat} {a : Assembly} {r : UrDecoded} :
    urFinish sha scratch n a = .ok r ↔ (assembled a.slots).length ≤ scratch ∧
      ∃ b, digestCheck sha (a.digest.getD []) (assembled a.slots) noFrag = .ok b ∧
        r = ⟨b, n, 1, (assembled a.slots).length⟩ := by
  unfold urFinish
  split_ifs with long
  · exact iff_of_false nofun fun ⟨fits, _⟩ => by omega
  · cases digestCheck sha (a.digest.getD []) (assembled a.slots) noFrag <;> simp [Nat.not_lt.mp long, eq_comm]

/-- Settles O57: `n` pairwise different indices between 1 and `n` are all of them. -/
theorem decodedIndicesArePermutation : Obligations.DecodedIndicesArePermutation := by
  intro sha scratch type fs r many h
  obtain ⟨a, placed, -⟩ := (urDecode_set_eq_ok many).mp h
  obtain ⟨idx, nodup, -, members⟩ := indices_of_placeAll List.length_replicate placed
  have tokens : List.Forall₂ (fun i f => i ∈ List.range' 1 fs.length ∧
      ∃ p0 tok dg chunk, parts f = [p0, tok, dg, chunk] ∧ parseSeq tok = .ok (i, fs.length)) idx fs :=
    members.imp fun i f ⟨dg, chunk, p0, tok, shape, _, token, low, high⟩ =>
      ⟨List.mem_range'_1.mpr ⟨low, by omega⟩, p0, tok, dg, chunk, shape, token⟩
  obtain ⟨inRange, read⟩ := (List.forall₂_and_left _ _).mp tokens
  refine ⟨idx, ?_, read.flip⟩
  exact (nodup.subperm inRange).perm_of_length_le (by simp [members.length_eq])

/-- One order of a set decodes to what another does: the pass over them ends in the same slots and digest (R174 (b)). -/
theorem urDecode_perm {sha : List Byte → List Byte} {scratch : Nat} {type : List Byte} {fs gs : List (List Byte)}
    {r : UrDecoded} (many : 2 ≤ fs.length) (perm : fs.Perm gs) (h : urDecode sha scratch type fs = .ok r) :
    urDecode sha scratch type gs = .ok r := by
  obtain ⟨a, placed, finish⟩ := (urDecode_set_eq_ok many).mp h
  rw [perm.length_eq] at placed finish many
  exact (urDecode_set_eq_ok many).mpr ⟨a, placeAll_perm perm List.length_replicate placed, finish⟩

/-- Settles O58. -/
theorem fragmentOrderIsIrrelevant : Obligations.FragmentOrderIsIrrelevant :=
  fun _ _ _ _ _ _ many perm => ⟨urDecode_perm many perm, urDecode_perm (perm.length_eq ▸ many) perm.symm⟩

/-- Settles O60: the digest field that the pass ends with is that of every fragment. -/
theorem decodedSetMatchesItsDigest : Obligations.DecodedSetMatchesItsDigest := by
  intro sha scratch type fs r many h
  obtain ⟨a, placed, finish⟩ := (urDecode_set_eq_ok many).mp h
  obtain ⟨fits, b, check, rfl⟩ := urFinish_eq_ok.mp finish
  obtain ⟨⟨x, digest⟩, length, y, payload⟩ := digestCheck_eq_ok.mp check
  refine ⟨a.digest.getD [], assembled a.slots, x, y, fun f hf => ?_, digest, length, payload, fits, rfl, rfl, rfl⟩
  obtain ⟨i, dg, chunk, ⟨p0, tok, shape, header, -⟩, seen⟩ := member_of_placeAll placed f hf
  rw [seen]
  exact ⟨p0, tok, chunk, shape, header⟩

end Sys2Proof.Machine
end

section
/-! The fragments of a host (43_ur.md R160, R174 (c)). Their texts hold no part separator but those that the grammar
writes, so each reads back as the fragment of the set that it was built as; in the host's order every fragment takes the
next free slot, and the slots together are the payload text. -/

namespace Sys2Proof.Machine

/-! ### Numbers and tokens -/

/-- The value of a digit. -/
theorem toNat_digitByte {n : Nat} (small : n < 10) : (digitByte n).toNat = 48 + n := by
  rw [digitByte, BitVec.toNat_ofNat]
  omega

/-- One more digit behind a number. -/
theorem decimalValue_concat (ds : List Byte) (b : Byte) :
    decimalValue (ds ++ [b]) = 10 * decimalValue ds + (b.toNat - 48) :=
  List.foldl_append

/-- Enough fuel writes the digits of the number in front of what stands behind them. -/
theorem decimalFrom_eq {fuel n : Nat} (enough : n < fuel) (acc : List Byte) :
    ∃ ds, decimalFrom fuel n acc = ds ++ acc ∧ Digits ds ∧ decimalValue ds = n := by
  induction fuel generalizing n acc with
  | zero => exact absurd enough (Nat.not_lt_zero n)
  | succ fuel ih =>
    rw [decimalFrom]
    split_ifs with small
    · have value := toNat_digitByte small
      refine ⟨[digitByte n], rfl, ⟨by simp, by simpa using (by omega)⟩, ?_⟩
      exact (decimalValue_concat [] _).trans (by rw [value]; simp [decimalValue])
    · have last : n % 10 < 10 := Nat.mod_lt n (by omega)
      have value := toNat_digitByte last
      obtain ⟨ds, text, ⟨nonempty, digits⟩, front⟩ := ih (n := n / 10) (by omega) (digitByte (n % 10) :: acc)
      refine ⟨ds ++ [digitByte (n % 10)], by simp [text], ⟨by simp, fun b hb => ?_⟩, ?_⟩
      · rcases List.mem_append.mp hb with hb | hb
        · exact digits b hb
        · obtain rfl := List.mem_singleton.mp hb
          omega
      · rw [decimalValue_concat, front, value]
        omega

/-- A number in decimal is a digit sequence of that value (R160, R164). -/
theorem decimalText_spec (n : Nat) : Digits (decimalText n) ∧ decimalValue (decimalText n) = n := by
  obtain ⟨ds, text, digits, value⟩ := decimalFrom_eq n.lt_succ_self []
  rw [decimalText, text, List.append_nil]
  exact ⟨digits, value⟩

/-- The token that a host writes. -/
def hostToken (index total : Nat) : List Byte := decimalText index ++ ofLetters ++ decimalText total

/-- It is read back as its two numbers (R160, R164). -/
theorem parseSeq_hostToken {index total : Nat} (small : index ≤ 0xFFFFFFFF) (small' : total ≤ 0xFFFFFFFF) :
    parseSeq (hostToken index total) = .ok (index, total) := by
  obtain ⟨digits, value⟩ := decimalText_spec index
  obtain ⟨digits', value'⟩ := decimalText_spec total
  obtain ⟨read, -, -⟩ := sequencingTokenGrammar (hostToken index total)
  have token : SeqToken (hostToken index total) (decimalText index) (decimalText total) :=
    ⟨0x6F, 0x66, .inl rfl, .inl rfl, digits, digits', rfl⟩
  simpa [value, value'] using read _ _ token (by omega) (by omega)

/-! ### Texts without separator -/

/-- No digit is the part separator. -/
theorem separator_notMem_decimalText (n : Nat) : partSeparator ∉ decimalText n := by
  obtain ⟨⟨-, digits⟩, -⟩ := decimalText_spec n
  exact fun mem => absurd (digits _ mem) (by decide)

/-- So a host's token has none. -/
theorem separator_notMem_hostToken (index total : Nat) : partSeparator ∉ hostToken index total := by
  simp only [hostToken, List.mem_append, not_or]
  exact ⟨⟨separator_notMem_decimalText index, by decide⟩, separator_notMem_decimalText total⟩

/-- Nor has a text of symbols. -/
theorem separator_notMem_encodeData (b : List Byte) : partSeparator ∉ (encodeData b).1 := by
  have noSymbol : ∀ x : Symbol, sym x ≠ partSeparator := by decide
  intro mem
  obtain ⟨x, -, same⟩ := List.mem_map.mp mem
  exact noSymbol x same

/-- Nor the first part, where the type has none. -/
theorem separator_notMem_header {type : List Byte} (absent : partSeparator ∉ type) : partSeparator ∉ urScheme ++ type := by
  simp only [List.mem_append, not_or]
  exact ⟨by decide, absent⟩

/-- The first part that a host writes matches its type (R163). -/
theorem headerMatches_host (type : List Byte) : headerMatches (urScheme ++ type) type = true := beq_self_eq_true _

/-! ### Chunks -/

/-- The chunks of a text make up the text (R160). -/
theorem flatten_chunksFrom {capacity fuel : Nat} {t : List Byte} (positive : 1 ≤ capacity) (enough : t.length ≤ fuel) :
    (chunksFrom capacity fuel t).flatten = t := by
  induction fuel generalizing t with
  | zero => exact (List.eq_nil_of_length_eq_zero (Nat.le_zero.mp enough)).symm
  | succ fuel ih =>
    cases t with
    | nil => rfl
    | cons b t =>
      have shorter : ((b :: t).drop capacity).length ≤ fuel := by
        rw [List.length_drop]
        omega
      show ((b :: t).take capacity :: chunksFrom capacity fuel ((b :: t).drop capacity)).flatten = b :: t
      rw [List.flatten_cons, ih shorter, List.take_append_drop]

/-- The chunks of a text make up the text, with the fuel that `chunks` gives. -/
theorem flatten_chunks {capacity : Nat} (positive : 1 ≤ capacity) (t : List Byte) : (chunks capacity t).flatten = t :=
  flatten_chunksFrom positive le_rfl

/-! ### Fragments of a set -/

/-- A fragment that a host writes is the one of its index in the set (R160, R170). -/
theorem setMember_multiFragment {type dg chunk : List Byte} {i n : Nat} (inType : partSeparator ∉ type)
    (inDigest : partSeparator ∉ dg) (inChunk : partSeparator ∉ chunk) (low : 1 ≤ i) (high : i ≤ n) (few : n ≤ 0xFFFFFFFF) :
    SetMember type n (multiFragment type i n dg chunk) i dg chunk := by
  refine ⟨urScheme ++ type, hostToken i n, ?_, headerMatches_host type, parseSeq_hostToken (high.trans few) few, low, high⟩
  have shape := parts_four (separator_notMem_header inType) (separator_notMem_hostToken i n) inDigest inChunk
  rw [← shape]
  simp [multiFragment, hostToken]

/-- The host writes as many fragments as it has chunks. -/
theorem length_multiFragments (type dg : List Byte) (n i : Nat) (cs : List (List Byte)) :
    (multiFragments type dg n i cs).length = cs.length := by
  induction cs generalizing i with
  | nil => rfl
  | cons c cs ih => exact congrArg Nat.succ (ih (i + 1))

/-- The slots when the chunks `placed` stand in theirs and `left` slots are free. -/
def hostSlots (placed : List (List Byte)) (left : Nat) : List (Option (List Byte)) :=
  placed.map some ++ List.replicate left none

/-- The next slot is free. -/
theorem hostSlots_free (placed : List (List Byte)) (left : Nat) :
    (hostSlots placed (left + 1)).getD placed.length none = none := by
  simp [hostSlots]

/-- The next chunk takes the next slot. -/
theorem hostSlots_set (placed : List (List Byte)) (left : Nat) (c : List Byte) :
    (hostSlots placed (left + 1)).set placed.length (some c) = hostSlots (placed ++ [c]) left := by
  simp [hostSlots, List.replicate_succ]

/-- The slots in index order are the chunks in order (R171). -/
theorem assembled_hostSlots (placed : List (List Byte)) : assembled (hostSlots placed 0) = placed.flatten := by
  simp [assembled, hostSlots, Function.comp_def]

/-- The next fragment of a host goes through when its digest field is the one seen so far, if any. -/
theorem placeAll_multiFragments_cons {type dg c : List Byte} {n k : Nat} {placed cs : List (List Byte)}
    {d : Option (List Byte)} {a : Assembly} (inType : partSeparator ∉ type) (inDigest : partSeparator ∉ dg)
    (inChunk : partSeparator ∉ c) (few : n ≤ 0xFFFFFFFF) (count : placed.length + (c :: cs).length = n)
    (seen : ∀ d' ∈ d, d' = dg)
    (rest : placeAll type n (k + 1) (multiFragments type dg n (placed ++ [c]).length cs)
      ⟨hostSlots (placed ++ [c]) cs.length, some dg⟩ = .ok a) :
    placeAll type n k (multiFragments type dg n placed.length (c :: cs)) ⟨hostSlots placed (c :: cs).length, d⟩ =
      .ok a := by
  rw [List.length_cons] at count ⊢
  have member : SetMember type n (multiFragment type (placed.length + 1) n dg c) (placed.length + 1) dg c :=
    setMember_multiFragment inType inDigest inChunk (by omega) (by omega) few
  refine placeAll_cons_eq_ok.mpr ⟨placed.length + 1, dg, c, member, ⟨seen, hostSlots_free placed cs.length⟩, ?_⟩
  rw [Assembly.place, Nat.add_sub_cancel, hostSlots_set]
  simpa using rest

/-- The fragments from the second on go through, and every chunk stands in its slot then. -/
theorem placeAll_multiFragments {type dg : List Byte} {n : Nat} {placed cs : List (List Byte)} (k : Nat)
    (inType : partSeparator ∉ type) (inDigest : partSeparator ∉ dg) (inChunks : ∀ c ∈ cs, partSeparator ∉ c)
    (few : n ≤ 0xFFFFFFFF) (count : placed.length + cs.length = n) :
    placeAll type n k (multiFragments type dg n placed.length cs) ⟨hostSlots placed cs.length, some dg⟩ =
      .ok ⟨hostSlots (placed ++ cs) 0, some dg⟩ := by
  induction cs generalizing placed k with
  | nil => rw [List.append_nil]; rfl
  | cons c cs ih =>
    obtain ⟨inChunk, inRest⟩ := List.forall_mem_cons.mp inChunks
    have rest := ih (placed := placed ++ [c]) (k + 1) inRest (by simp at count ⊢; omega)
    rw [List.append_assoc] at rest
    exact placeAll_multiFragments_cons inType inDigest inChunk few count (fun _ h => (Option.some.inj h).symm) rest

/-! ### Decoding -/

/-- A text that a host encodes decodes to its bytes (42_base32.md R145 (c)). -/
theorem decodeData_encodeData (b : List Byte) : ∃ x, decodeData (encodeData b).1 = .ok (b, x) := by
  obtain ⟨d, decoded⟩ := dataTextRoundTrips b
  exact ⟨_, decoded⟩

/-- The digest field that a host writes passes the check against the payload (R160, R167). -/
theorem digestCheck_host {sha : List Byte → List Byte} (framed : List Byte) (frag : Nat)
    (length : (sha framed).length = 32) :
    digestCheck sha (encodeData (sha framed)).1 (encodeData framed).1 frag = .ok framed :=
  digestCheck_eq_ok.mpr ⟨decodeData_encodeData (sha framed), length, decodeData_encodeData framed⟩

/-- A host's single fragment decodes to the bytes of its text (R160, R169). -/
theorem urDecode_singleFragment {sha : List Byte → List Byte} {scratch : Nat} {type chunk framed : List Byte} {x : Decoded}
    (inType : partSeparator ∉ type) (inChunk : partSeparator ∉ chunk) (decoded : decodeData chunk = .ok (framed, x)) :
    urDecode sha scratch type [singleFragment type chunk] = .ok ⟨framed, 1, 0, chunk.length⟩ := by
  have shape : parts (singleFragment type chunk) = [urScheme ++ type, chunk] := by
    rw [← parts_two (separator_notMem_header inType) inChunk]
    simp [singleFragment]
  show urSingle sha type (singleFragment type chunk) = _
  simp only [urSingle, shape, urSingleData, headerMatches_host, if_true, decoded]

/-- A host's set of two fragments or more decodes to the bytes of its text (R160, R170, R171). -/
theorem urDecode_multiFragments {sha : List Byte → List Byte} {scratch : Nat} {type framed c : List Byte}
    {cs : List (List Byte)} (length : (sha framed).length = 32) (inType : partSeparator ∉ type) (many : 1 ≤ cs.length)
    (few : (c :: cs).length ≤ 0xFFFFFFFF) (text : (c :: cs).flatten = (encodeData framed).1)
    (fits : (encodeData framed).1.length ≤ scratch) :
    urDecode sha scratch type (multiFragments type (encodeData (sha framed)).1 (c :: cs).length 0 (c :: cs)) =
      .ok ⟨framed, (c :: cs).length, 1, (encodeData framed).1.length⟩ := by
  have inDigest := separator_notMem_encodeData (sha framed)
  have inChunks : ∀ c' ∈ c :: cs, partSeparator ∉ c' := fun c' mem inside =>
    separator_notMem_encodeData framed (text ▸ List.mem_flatten.mpr ⟨c', mem, inside⟩)
  obtain ⟨inChunk, inRest⟩ := List.forall_mem_cons.mp inChunks
  have placed := placeAll_multiFragments_cons (placed := []) (d := none) (k := 0) inType inDigest inChunk few
    (Nat.zero_add _) nofun (placeAll_multiFragments 1 inType inDigest inRest few (Nat.add_comm 1 cs.length))
  have assembledText : assembled (hostSlots (c :: cs) 0) = (encodeData framed).1 := (assembled_hostSlots _).trans text
  have size := length_multiFragments type (encodeData (sha framed)).1 (c :: cs).length 0 (c :: cs)
  refine (urDecode_set_eq_ok (by rw [size, List.length_cons]; omega)).mpr ?_
  rw [size]
  refine ⟨_, placed, urFinish_eq_ok.mpr ⟨?_, framed, ?_, ?_⟩⟩
  · exact assembledText.symm ▸ fits
  · exact assembledText.symm ▸ digestCheck_host framed noFrag length
  · exact assembledText.symm ▸ rfl

/-- Settles O59, by the number of chunks: none would make an empty text, one makes a single fragment, more make a set. -/
theorem hostFragmentsDecode : Obligations.HostFragmentsDecode := by
  intro sha scratch capacity type framed hash positive inType few fits
  have text := flatten_chunks positive (encodeData framed).1
  unfold hostFragments at few ⊢
  match chunks capacity (encodeData framed).1, text, few with
  | [], text, _ =>
    have length := length_bech32Encode [] (pack8to5 framed) .bis
    have empty : 0 = (encodeData framed).1.length := congrArg List.length text
    rw [encodeData] at empty
    omega
  | [c], text, _ =>
    obtain rfl : c = (encodeData framed).1 := by simpa using text
    obtain ⟨x, decoded⟩ := decodeData_encodeData framed
    exact ⟨_, _, _, urDecode_singleFragment inType (separator_notMem_encodeData framed) decoded⟩
  | c :: c' :: cs, text, few =>
    have count : (c :: c' :: cs).length ≤ 254 := (length_multiFragments _ _ _ _ _).symm.trans_le few
    exact ⟨_, _, _, urDecode_multiFragments (hash framed) inType (Nat.le_add_left 1 cs.length) (by omega) text fits⟩

end Sys2Proof.Machine
end

section
/-! The UR commands (43_ur.md R172, R173). Each is a row of checks (40_command_engine.md R95) in front of the probe or the
decoder, and ends with its error, with result words alone, or with an output as the codec commands do (`outputEnd`). -/

namespace Sys2Proof.Machine

/-- Settles O41. -/
theorem urProbeReportsToken : Obligations.UrProbeReportsToken := by
  refine ⟨fun _ opcode low high => decode_of_some low high opcode rfl, fun s => ⟨fun long => ?_,
    fun e fits failed => ?_, fun index total np fits found => ?_⟩⟩
  · exact settle_fails _ (checkBlen_eq_error long)
  · have run : exec .urProbe s = settle s (probe s.textBytes >>= _) :=
      settle_passes _ (checkBlen_eq_ok (u := ()).mpr fits)
    exact run ▸ settle_fails _ failed
  · have run : exec .urProbe s =
        .next (complete (s.spoilOut.results (countWord index) (countWord total) (countWord np))) :=
      (settle_passes _ (checkBlen_eq_ok (u := ()).mpr fits)).trans (settle_passes _ found)
    exact ⟨_, run, succeeds_results s _ _ _, rfl, ⟨rfl, fun issued => issued.outLen⟩, rfl, rfl, rfl⟩

/-! ### UR.DEC -/

/-- `FCOUNT > MAX_FRAGS` (R95). -/
theorem checkCount_eq_error {s : State} (many : s.params.maxFrags < s.fcount.toNat) :
    checkCount s = .error (argError 4 noFrag) :=
  require_eq_error.mpr ⟨decide_eq_false (by omega), rfl⟩

/-- The first descriptor that reaches past INBUF (R95). -/
theorem checkDescs_eq_error {s : State} {j n k : Nat} (from_j : j ≤ k) (to_n : k < j + n)
    (past : s.params.inBytes < s.descOff k + s.descLen k)
    (before : ∀ i, j ≤ i → i < k → s.descOff i + s.descLen i ≤ s.params.inBytes) :
    checkDescs s j n = .error (argError 5 k) := by
  induction n generalizing j with
  | zero => omega
  | succ n ih =>
    rw [checkDescs]
    rcases from_j.eq_or_lt with rfl | later
    · exact if_neg (by omega)
    · rw [if_pos (before j le_rfl later)]
      exact ih later (by omega) fun i low high => before i (by omega) high

/-- The expected type as the statement writes it (R165). -/
theorem State.expType_eq (s : State) : s.expType = if s.alen = 0 then defaultType else s.hrpBytes := by
  have zero_iff : s.alen = 0 ↔ s.alen.toNat = 0 := BitVec.toNat_eq (y := 0#16)
  unfold State.expType
  simp only [zero_iff, Nat.pos_iff_ne_zero, ite_not]

/-- What UR.DEC does behind its argument checks (R173). -/
def urDecWork (s : State) : Except CmdError State :=
  urDecode sha256 s.params.scratchBytes s.expType s.fragments >>= fun r =>
    outputEnd s r.bytes (countWord r.total) (countWord r.checked) (countWord r.plen)

/-- UR.DEC is its three argument checks and that work. -/
theorem exec_urDec (s : State) : exec .urDec s =
    settle s (checkAlen s >>= fun _ => checkCount s >>= fun _ => checkDescs s 0 s.fcount.toNat >>= fun _ => urDecWork s) :=
  rfl

/-- Where ALEN fits, the other two checks are left. -/
theorem exec_urDec_alen {s : State} (fits : s.alen.toNat ≤ s.params.inBytes) :
    exec .urDec s = settle s (checkCount s >>= fun _ => checkDescs s 0 s.fcount.toNat >>= fun _ => urDecWork s) :=
  (exec_urDec s).trans (settle_passes _ (checkAlen_eq_ok (u := ()).mpr fits))

/-- Where FCOUNT fits too, the descriptors are left. -/
theorem exec_urDec_count {s : State} (fits : s.alen.toNat ≤ s.params.inBytes)
    (count : s.fcount.toNat ≤ s.params.maxFrags) :
    exec .urDec s = settle s (checkDescs s 0 s.fcount.toNat >>= fun _ => urDecWork s) :=
  (exec_urDec_alen fits).trans (settle_passes _ (checkCount_eq_ok (u := ()).mpr count))

/-- Settles O42. -/
theorem urDecodeReportsPayload : Obligations.UrDecodeReportsPayload := by
  refine ⟨fun _ opcode low high => decode_of_some low high opcode rfl, fun s => ⟨fun long => ?_, fun fits many => ?_,
    fun k fits count inside past before => ?_, fun fits count descs => ?_⟩⟩
  · exact settle_fails _ (checkAlen_eq_error long)
  · rw [exec_urDec_alen fits]
    exact settle_fails _ (checkCount_eq_error many)
  · rw [exec_urDec_count fits count]
    exact settle_fails _ (checkDescs_eq_error k.zero_le (by omega) past fun i _ => before i)
  · have run : exec .urDec s = settle s (urDecWork s) := (exec_urDec_count fits count).trans
      (settle_passes _ (checkDescs_eq_ok (u := ()).mpr fun j _ last => descs j (by omega)))
    rw [run, ← State.expType_eq]
    refine ⟨fun e failed => settle_fails _ failed, fun b total checked plen decoded => ?_⟩
    have ends : settle s (urDecWork s) = settle s (outputEnd s b (countWord total) (countWord checked) (countWord plen)) :=
      settle_passes _ decoded
    rw [ends]
    exact ⟨settle_outputEnd_overflow _ _ _, settle_outputEnd_fits _ _ _⟩

end Sys2Proof.Machine
end

section
/-! The interrupt output (60_exceptions.md R207): what makes `irq` 1, its rise at the completion step, and the writes and
resets that lower it. -/

namespace Sys2Proof.Machine

/-- R207's definition of the output. -/
theorem irq_iff (s : State) : s.irq = true ↔ s.ie = true ∧ s.done = true := Bool.and_eq_true_iff

/-- With IE = 0 the interrupt is masked. -/
theorem irq_of_ie_false {s : State} (masked : s.ie = false) : s.irq = false := by simp [State.irq, masked]

/-- With DONE = 0 none is pending. -/
theorem irq_of_done_false {s : State} (clear : s.done = false) : s.irq = false := by simp [State.irq, clear]

/-- The block drives the line of the parameter IRQ_LINE and no other. -/
theorem drivesLine_iff (s : State) (line : Nat) :
    s.drivesLine line = true ↔ line = s.params.irqLine ∧ s.irq = true := by
  simp [State.drivesLine]

/-- The completion step of any word raises the interrupt where IE enables it: it sets DONE and keeps IE. -/
theorem completion_raises_irq {s : State} (enabled : s.ie = true) : ∃ t, completion s = .next t ∧ t.irq = true := by
  obtain ⟨t, ends, -, done⟩ := completion_ends s
  have frame : CommandFrame s t := commandFrame_of_work (completion_work ends)
  exact ⟨t, ends, (irq_iff t).mpr ⟨frame.ie.trans enabled, done⟩⟩

/-- A soft reset leaves no interrupt (10_state.md R45, 70_reset_and_hazards.md R231). -/
theorem softReset_irq (s : State) : (softReset s).irq = false := irq_of_ie_false rfl

/-- Neither does the rise of `rst` (R230, log 9). -/
theorem assertRst_irq (s : State) : ({ hardReset s with rst := true } : State).irq = false := irq_of_ie_false rfl

/-- An issue leaves none: it clears DONE (R91). -/
theorem issue_irq (w : Word) (s : State) : (issue w s).irq = false := irq_of_done_false rfl

/-- CLRDONE, bit 1 of a STATUS write, leaves none: it clears DONE (10_state.md R29). -/
theorem clearStatus_irq {v : Word} (clrDone : v.getLsbD 1 = true) (s : State) : (s.clearStatus v).irq = false := by
  have clear : (s.clearStatus v).done = false := by rw [clearStatus_done, clrDone, Bool.not_true, Bool.and_false]
  exact irq_of_done_false clear

/-! ### The step of a CTRL write -/

/-- A write with SRST set is a soft reset in every engine state (10_state.md R26, 70_reset_and_hazards.md R231). -/
theorem step_write_softReset {s : State} {addr : Nat} {v : Word} {rest : List Input} {l : Loc} (low : s.rst = false)
    (next : s.inputs = .write addr v :: rest) (loc : locateBus s.params addr = some l)
    (soft : isSoftReset l v = true) :
    step s = .next (softReset { s with inputs := rest, answer := none }) := by
  rw [step_write next loc]
  simp [hostWrite, low, soft]

/-- A CTRL write while IDLE that masks the interrupt or resets the block leaves none. -/
theorem ctrlWrite_lowers_irq {s : State} {addr : Nat} {v : Word} {rest : List Input} (low : s.rst = false)
    (idle : s.eng = .idle) (next : s.inputs = .write addr v :: rest)
    (loc : locateBus s.params addr = some (.reg .ctrl)) (lowers : v.getLsbD 0 = false ∨ v.getLsbD 1 = true) :
    ∃ t, step s = .next t ∧ t.irq = false := by
  cases soft : isSoftReset (.reg .ctrl) v with
  | true => exact ⟨_, step_write_softReset low next loc soft, softReset_irq _⟩
  | false =>
    have masks : v.getLsbD 0 = false := lowers.resolve_right (Bool.eq_false_iff.mp soft)
    exact ⟨_, step_write_idle low idle next loc soft, irq_of_ie_false masks⟩

/-- Settles O29: completion sets DONE and keeps IE; each of the writes and the rise of `rst` clears one of the two. -/
theorem interruptFollowsDone : Obligations.InterruptFollowsDone := by
  refine ⟨irq_iff, drivesLine_iff, ?rise, ?write, ?reset⟩
  case rise =>
    intro s low busy turn enabled
    rw [step_completion low busy turn]
    exact completion_raises_irq (s := s.popInput) enabled
  case write =>
    intro s off v rest low idle next lowers
    rcases lowers with ⟨rfl, clrDone⟩ | rfl | ⟨rfl, lowers⟩
    · exact ⟨_, step_write_idle low idle next (locateBus_reg s.params .status) rfl, clearStatus_irq clrDone _⟩
    · exact ⟨_, step_write_idle low idle next (locateBus_reg s.params .cmd) rfl, issue_irq v _⟩
    · exact ctrlWrite_lowers_irq low idle next (locateBus_reg s.params .ctrl) lowers
  case reset =>
    intro s rest next
    exact ⟨_, step_cons next, assertRst_irq _⟩

end Sys2Proof.Machine
end

section
/-! Resets (70_reset_and_hazards.md R230, R231). Both put the registers in the reset column of 10_state.md R45; what they
leave of the buffers is said byte by byte. While `rst` is asserted an event of the window or of the engine is taken off
the list, and a read answers a free word. -/

namespace Sys2Proof.Machine

open Sys2Proof.Config

/-! ### The registers -/

/-- A soft reset leaves the reset column (R231). -/
theorem softReset_atReset (s : State) : (softReset s).AtReset := by constructor <;> rfl

/-- So does the rise of `rst` (R230; log 9). -/
theorem assertRst_atReset (s : State) : ({ hardReset s with rst := true } : State).AtReset := by constructor <;> rfl

/-- In the reset column STATUS reads 0: not BUSY, not DONE, no HAZ, no error (10_state.md R45). -/
theorem State.AtReset.statusWord {s : State} (h : s.AtReset) : s.statusWord = 0 := by
  rw [statusWord_idle h.eng, h.errcode, h.haz, h.done]
  rfl

/-! ### The bytes -/

/-- From the offset on, a lookup sees what it saw; below it, nothing. -/
theorem Memory.lookup_from (m : List Host.Cell) (a c : Nat) :
    Memory.lookup (m.filter fun d => decide (a ≤ d.1)) c = if a ≤ c then Memory.lookup m c else none := by
  split
  case isTrue within =>
    induction m with
    | nil => rfl
    | cons d rest ih =>
      obtain ⟨k, v⟩ := d
      by_cases kept : a ≤ k
      · simp [kept, Memory.lookup, ih]
      · have other : k ≠ c := by omega
        simp [kept, Memory.lookup, other, ih]
  case isFalse outside =>
    refine Memory.lookup_eq_none fun d listed own => outside ?_
    exact own ▸ of_decide_eq_true (List.mem_filter.mp listed).2

/-- INBUF and DESC made unspecified read as their free bytes (93_implementation_defined.md U4). -/
theorem State.byteAt_spoilRam (s : State) {a : Nat} (ha : a < outBase) :
    s.spoilRam.byteAt a = ramByte (s.ramDraw + 1) a := by
  simp [State.byteAt, Memory.lookup_from, Nat.not_le.2 ha, ha]

/-- Making them unspecified leaves OUTBUF alone. -/
theorem State.byteAt_spoilRam_out (s : State) {a : Nat} (ha : outBase ≤ a) : s.spoilRam.byteAt a = s.byteAt a := by
  simp [State.byteAt, Memory.lookup_from, ha, Nat.not_lt.2 ha]

/-- A soft reset keeps every byte of INBUF and DESC (R231). -/
theorem byteAt_softReset (s : State) {a : Nat} (ha : a < outBase) : (softReset s).byteAt a = s.byteAt a :=
  ((resetRegisters s).byteAt_spoilOut ha).trans (State.byteAt_congr rfl rfl rfl a)

/-- It makes every byte of OUTBUF unspecified (R231). -/
theorem byteAt_softReset_out (s : State) {a : Nat} (ha : outBase ≤ a) :
    (softReset s).byteAt a = outByte (s.outDraw + 1) a :=
  (resetRegisters s).byteAt_spoilOut_out ha

/-- A hard reset makes every byte of INBUF and DESC unspecified (R230). -/
theorem byteAt_hardReset (s : State) {a : Nat} (ha : a < outBase) :
    (hardReset s).byteAt a = ramByte (s.ramDraw + 1) a :=
  (softReset s).byteAt_spoilRam ha

/-- And every byte of OUTBUF. -/
theorem byteAt_hardReset_out (s : State) {a : Nat} (ha : outBase ≤ a) :
    (hardReset s).byteAt a = outByte (s.outDraw + 1) a :=
  ((softReset s).byteAt_spoilRam_out ha).trans (byteAt_softReset_out s ha)

/-! ### Held in reset -/

/-- Every address of the window names a location (10_state.md R20). -/
theorem locateBus_isSome {p : Params} {addr : Nat} (start : p.blockBase ≤ addr)
    (inside : addr < p.blockBase + 0x18000) : ∃ l, locateBus p addr = some l := by
  obtain ⟨off, rfl⟩ := Nat.exists_eq_add_of_le start
  rw [locateBus_base]
  exact locate_isSome p (Nat.lt_of_add_lt_add_left inside)

/-- The mask of a read that is unspecified on all 32 bits limits nothing. -/
theorem and_fullMask (w : Word) : w &&& 0xFFFFFFFF = w := BitVec.and_allOnes

/-- A read while `rst` is asserted answers a free word (R230). -/
theorem step_read_held {s : State} {addr : Nat} {rest : List Input} {l : Loc} (held : s.rst = true)
    (next : s.inputs = .read addr :: rest) (loc : locateBus s.params addr = some l) :
    step s = .next { s with inputs := rest, busDraw := s.busDraw + 1, answer := some (busWord s.busDraw) } := by
  rw [step_read next loc, hostRead, if_pos held, answerFree, and_fullMask]

/-- A write while `rst` is asserted has no effect (R230). -/
theorem step_write_held {s : State} {addr : Nat} {v : Word} {rest : List Input} {l : Loc} (held : s.rst = true)
    (next : s.inputs = .write addr v :: rest) (loc : locateBus s.params addr = some l) :
    step s = .next { s with inputs := rest, answer := none } := by
  rw [step_write next loc, hostWrite, if_pos held]

/-- The engine does nothing while `rst` is asserted (R230). -/
theorem step_engine_held {s : State} (held : s.rst = true) (turn : s.nextInput = .engine) :
    step s = .next { s with inputs := s.inputs.tail, answer := none } := by
  rw [step_engine turn, engineTurn, if_pos held]

/-! ### The statements -/

/-- Settles O16: the rise of `rst` is `hardReset`, its fall changes the level alone, and while it is asserted each event
of the window or the engine is held. -/
theorem hardResetGivesResetColumn : Obligations.HardResetGivesResetColumn := by
  refine ⟨State.reset_atReset, ?rise, ?fall, ?read, ?write, fun s held turn => step_engine_held held turn⟩
  case rise =>
    intro s rest next
    exact ⟨_, step_cons next, assertRst_atReset _, rfl, assertRst_irq _, rfl, rfl,
      fun a ram => byteAt_hardReset { s with inputs := rest, answer := none } ram,
      fun a out => byteAt_hardReset_out { s with inputs := rest, answer := none } out⟩
  case fall => exact fun s rest next => step_cons next
  case read =>
    intro s addr rest held next start inside
    obtain ⟨l, loc⟩ := locateBus_isSome start inside
    exact step_read_held held next loc
  case write =>
    intro s addr v rest held next start inside
    obtain ⟨l, loc⟩ := locateBus_isSome start inside
    exact step_write_held held next loc

/-- Settles O17: any byte offset of the word names CTRL, and the step is `softReset` in both engine states. -/
theorem softResetAbandonsCommand : Obligations.SoftResetAbandonsCommand := by
  intro s r v rest low hr srst next
  have loc : locateBus s.params (s.params.blockBase + 0x020 + r) = some (.reg .ctrl) :=
    (locateBus_low s.params hr rfl).trans (locateBus_reg s.params .ctrl)
  have column := softReset_atReset { s with inputs := rest, answer := none }
  exact ⟨_, step_write_softReset low next loc srst, column, softReset_irq _, column.statusWord, rfl, low, rfl,
    fun a ram => byteAt_softReset { s with inputs := rest, answer := none } ram, rfl,
    fun a out => byteAt_softReset_out { s with inputs := rest, answer := none } out⟩

end Sys2Proof.Machine
end

section
/-! Host accesses while BUSY (70_reset_and_hazards.md R235, R236). `busyLocMask` splits the reads, into those of current
values and those of free ones, and `hazardous` splits the writes; what is left is which offset names which location. -/

namespace Sys2Proof.Machine

open Sys2Proof.Config

/-! ### Reads -/

/-- A read of a location that R235 does not free answers what the location holds. -/
theorem step_read_busy_current {s : State} {addr : Nat} {rest : List Input} {l : Loc} (low : s.rst = false)
    (busy : s.eng = .busy) (next : s.inputs = .read addr :: rest) (loc : locateBus s.params addr = some l)
    (current : busyLocMask l = none) : step s = .next { s with inputs := rest, answer := some (readLoc s l) } := by
  rw [step_read next loc, ← readLoc_bus s rest none]
  simp [hostRead, low, busy, busyRead, current, answerWith]

/-- A read of the others answers a free value on the implemented bits. -/
theorem step_read_busy_free {s : State} {addr : Nat} {rest : List Input} {l : Loc} {mask : Word} (low : s.rst = false)
    (busy : s.eng = .busy) (next : s.inputs = .read addr :: rest) (loc : locateBus s.params addr = some l)
    (free : busyLocMask l = some mask) :
    step s = .next
      { s with inputs := rest, busDraw := s.busDraw + 1, answer := some (busWord s.busDraw &&& mask) } := by
  rw [step_read next loc]
  simp [hostRead, low, busy, busyRead, free, answerFree]

/-- With a command in flight STATUS reads BUSY and HAZ alone: issue cleared the other fields (40_command_engine.md
R91). -/
theorem State.InFlight.statusWord {s : State} (flight : s.InFlight) : s.statusWord = if s.haz then 9#32 else 1#32 := by
  rw [State.statusWord, State.err, State.busy, flight.eng, flight.errcode, flight.done]
  cases s.haz <;> rfl

/-- The registers that R235 says read their current values, each with its word while a command is in flight. -/
theorem currentRegister_of_listed {s : State} (flight : s.InFlight) {off : Nat} {w : Word}
    (listed : (off, w) ∈ [(0x000, 0xBC320100#32), (0x004, (BitVec.ofNat 8 s.params.maxFrags).setWidth 32),
      (0x008, BitVec.ofNat 32 s.params.inBytes), (0x00C, BitVec.ofNat 32 s.params.outBytes),
      (0x010, BitVec.ofNat 32 s.params.scratchBytes), (0x020, if s.ie then 1#32 else 0#32), (0x024, s.cmd),
      (0x028, if s.haz then 9#32 else 1#32), (0x030, 0#16 ++ s.alen), (0x034, 0#16 ++ s.blen),
      (0x038, 0#24 ++ s.fcount)]) :
    ∃ r, off = regOffset r ∧ busyMask r = none ∧ w = readReg s r := by
  simp only [List.mem_cons, Prod.mk.injEq, List.not_mem_nil, or_false] at listed
  rcases listed with h | h | h | h | h | h | h | h | h | h | h <;> obtain ⟨rfl, rfl⟩ := h
  · exact ⟨.id, rfl, rfl, rfl⟩
  · exact ⟨.caps, rfl, rfl, rfl⟩
  · exact ⟨.insize, rfl, rfl, rfl⟩
  · exact ⟨.outsize, rfl, rfl, rfl⟩
  · exact ⟨.scrsize, rfl, rfl, rfl⟩
  · exact ⟨.ctrl, rfl, rfl, (ctrlWord_eq s).symm⟩
  · exact ⟨.cmd, rfl, rfl, rfl⟩
  · exact ⟨.status, rfl, rfl, flight.statusWord.symm⟩
  · exact ⟨.alen, rfl, rfl, (BitVec.setWidth_eq_append (by decide)).symm⟩
  · exact ⟨.blen, rfl, rfl, (BitVec.setWidth_eq_append (by decide)).symm⟩
  · exact ⟨.fcount, rfl, rfl, (BitVec.setWidth_eq_append (by decide)).symm⟩

/-- The result registers that R235 frees, each with its implemented bits (log 8). -/
theorem freeRegister_of_listed {off : Nat} {mask : Word}
    (listed : (off, mask) ∈ [(0x02C, 0x0FFFFFFF#32), (0x03C, 0x0000FFFF#32), (0x040, 0x3FFFFFFF#32),
      (0x044, 0xFFFFFFFF#32), (0x048, 0xFFFFFFFF#32), (0x04C, 0xFFFFFFFF#32)]) :
    ∃ r, off = regOffset r ∧ busyMask r = some mask := by
  simp only [List.mem_cons, Prod.mk.injEq, List.not_mem_nil, or_false] at listed
  rcases listed with h | h | h | h | h | h <;> obtain ⟨rfl, rfl⟩ := h
  · exact ⟨.errInfo, rfl, rfl⟩
  · exact ⟨.outLen, rfl, rfl⟩
  · exact ⟨.acc, rfl, rfl⟩
  · exact ⟨.res0, rfl, rfl⟩
  · exact ⟨.res1, rfl, rfl⟩
  · exact ⟨.res2, rfl, rfl⟩

/-- The ends of the three reserved ranges, each with the word 0 (20_memory.md R55). -/
theorem absentOffset_of_listed (p : Params) {off : Nat} {w : Word}
    (listed : (off, w) ∈ [(0x014, 0#32), (0x01C, 0#32), (0x050, 0#32), (0x3FC, 0#32), (0x800, 0#32),
      (0x7FFC, 0#32)]) :
    AbsentBelowOutbuf p off ∧ w = 0#32 := by
  simp only [List.mem_cons, Prod.mk.injEq, List.not_mem_nil, or_false] at listed
  unfold AbsentBelowOutbuf
  rcases listed with h | h | h | h | h | h <;> obtain ⟨rfl, rfl⟩ := h <;> exact ⟨by omega, rfl⟩

/-- Settles O19: the listed offsets are those of current registers, of reserved words and of free registers; DESC and
INBUF words are current, and OUTBUF words free on every bit. -/
theorem busyReadAnswers : Obligations.BusyReadAnswers := by
  intro s off rest low busy inv next
  refine ⟨?current, ?desc, ?inbuf, ?free, ?outbuf⟩
  case current =>
    intro w listed
    rw [← List.take_append_drop 11 (_ :: _), List.mem_append] at listed -- eleven registers, then reserved offsets
    rcases listed with register | reserved
    · obtain ⟨r, rfl, current, rfl⟩ := currentRegister_of_listed (inv.inFlight busy) register
      exact step_read_busy_current low busy next (locateBus_reg s.params r) current
    · obtain ⟨absent, rfl⟩ := absentOffset_of_listed s.params reserved
      exact step_read_reserved low next ((locateBus_base _ _).trans (locate_absent absent))
  case desc =>
    rintro k hk rfl
    rw [← Nat.add_assoc] at next
    exact step_read_busy_current low busy next (locateBus_desc inv.legal hk) rfl
  case inbuf =>
    rintro j hj rfl
    rw [← Nat.add_assoc] at next
    exact step_read_busy_current low busy next (locateBus_inbuf inv.legal hj) rfl
  case free =>
    intro mask listed
    obtain ⟨r, rfl, free⟩ := freeRegister_of_listed listed
    exact step_read_busy_free low busy next (locateBus_reg s.params r) free
  case outbuf =>
    rintro j hj rfl
    rw [← Nat.add_assoc] at next
    rw [step_read_busy_free low busy next (locateBus_outbuf inv.legal hj) rfl, and_fullMask]

/-! ### Writes -/

/-- A hazard write sets HAZ and does nothing else (R236). -/
theorem step_write_hazard {s : State} {addr : Nat} {v : Word} {rest : List Input} {l : Loc} (low : s.rst = false)
    (busy : s.eng = .busy) (next : s.inputs = .write addr v :: rest) (loc : locateBus s.params addr = some l)
    (plain : isSoftReset l v = false) (hazards : hazardous l = true) :
    step s = .next { s with haz := true, inputs := rest, answer := none } := by
  rw [step_write_busy low busy next loc plain, busyWrite, if_pos hazards, hazard]

/-- The other writes do nothing (R236, 20_memory.md R55). -/
theorem step_write_ignored {s : State} {addr : Nat} {v : Word} {rest : List Input} {l : Loc} (low : s.rst = false)
    (busy : s.eng = .busy) (next : s.inputs = .write addr v :: rest) (loc : locateBus s.params addr = some l)
    (safe : hazardous l = false) : step s = .next { s with inputs := rest, answer := none } := by
  rw [step_write_busy low busy next loc (isSoftReset_of_not_hazardous safe v), busyWrite, if_neg (by simp [safe])]

/-- The registers other than CTRL whose writes are hazards. -/
theorem hazardRegister_of_listed {off : Nat} (listed : off ∈ [0x024, 0x028, 0x030, 0x034, 0x038, 0x040]) :
    ∃ r, off = regOffset r ∧ r ≠ .ctrl ∧ hazardous (.reg r) = true := by
  simp only [List.mem_cons, List.not_mem_nil, or_false] at listed
  rcases listed with rfl | rfl | rfl | rfl | rfl | rfl
  · exact ⟨.cmd, rfl, nofun, rfl⟩
  · exact ⟨.status, rfl, nofun, rfl⟩
  · exact ⟨.alen, rfl, nofun, rfl⟩
  · exact ⟨.blen, rfl, nofun, rfl⟩
  · exact ⟨.fcount, rfl, nofun, rfl⟩
  · exact ⟨.acc, rfl, nofun, rfl⟩

/-- Settles O20: each offset of the first clause names a location whose writes are hazards, and each of the second one
whose writes are not. -/
theorem hazardWritesAreIgnored : Obligations.HazardWritesAreIgnored := by
  intro s off v rest low busy next
  constructor
  · intro legal hazards
    rcases hazards with listed | ⟨rfl, noReset⟩ | ⟨k, hk, rfl⟩ | ⟨j, hj, rfl⟩
    · obtain ⟨r, rfl, notCtrl, hazards⟩ := hazardRegister_of_listed listed
      have plain : isSoftReset (.reg r) v = false := by
        rw [Bool.eq_false_iff, Ne, isSoftReset_iff]
        simp [notCtrl]
      exact step_write_hazard low busy next (locateBus_reg s.params r) plain hazards
    · exact step_write_hazard low busy next (locateBus_reg s.params .ctrl) noReset rfl
    · rw [← Nat.add_assoc] at next
      exact step_write_hazard low busy next (locateBus_desc legal hk) rfl rfl
    · rw [← Nat.add_assoc] at next
      exact step_write_hazard low busy next (locateBus_inbuf legal hj) rfl rfl
  · intro ignored
    obtain ⟨l, named, safe⟩ : ∃ l, locate s.params off = some l ∧ hazardous l = false :=
      locate_writeIgnored (by simpa only [AbsentBelowOutbuf, or_assoc] using ignored)
    exact step_write_ignored low busy next ((locateBus_base _ _).trans named) safe

end Sys2Proof.Machine
end
